-- ==== Sys2Proof/Word.lean ====
section
/-! DEFINITION. The word types of the A429C block: a byte lane, a 32-bit register, the encoding of a binary64 value. -/

namespace Sys2Proof

/-- One byte lane of a register (rule R74). -/
abbrev Byte := BitVec 8

/-- A 32-bit register, an ARINC-429 word, a command word or a `u32` (rules R9, R11, R73). -/
abbrev Word := BitVec 32

/-- The 64-bit encoding of an IEEE 754 binary64 value, `FLT` (rules R12, R75). -/
abbrev Flt := BitVec 64

end Sys2Proof
end

