-- ==== Sys2Proof/Syntax.lean ====
section
/-! DEFINITION. The command set: one constructor for each row of spec/opcode_table.json (rule R108). -/

namespace Sys2Proof

/-- A command of the A429C command interface 1.0. Operands are those of rule R107: `g` and `e` are indices from the
IDX field, `t` an index from SEL, `label` a wire-order label and `octal` an octal label value from SEL, `ssm` and
`sdi` the SSM and SDI fields, `valid` the V bit. The operand registers OPW, OPD and OPA are state, not syntax. -/
inductive Instr where
  | nop
  | lock
  | dec (t : Nat)
  | enc (t : Nat) (ssm sdi : BitVec 2)
  | chkv (t : Nat)
  | rxw (g : Nat)
  | drain (g : Nat)
  | tick (g : Nat)
  | getd (g : Nat) (label : BitVec 8)
  | getw (g : Nat) (octal : BitVec 8)
  | lprst (e : Nat)
  | lppre (e : Nat)
  | lpstep (e : Nat)
  | lpspool (e t : Nat) (valid : Bool)
  | dfrst (e : Nat)
  | dfpre (e : Nat)
  | dfstep (e : Nat)
  | dfspool (e t : Nat) (valid : Bool)
  deriving DecidableEq, Repr

end Sys2Proof
end

