-- ==== Sys2Proof/WellFormed.lean ====
section
/-! DEFINITION. Which commands have an encoding: an index fits its field (rules R106, R107). -/

namespace Sys2Proof

/-- `g` or `e` fits the 4-bit IDX field. -/
def idxFits (i : Nat) : Bool := i < 16

/-- `t` fits the 8-bit SEL field. -/
def selFits (t : Nat) : Bool := t < 256

/-- The command fits the one command format (rule R106). An index that fits its field but names no group, engine or
table entry is well formed: it decodes, and ends with InvalidArgument (rules R110, R273). -/
def Instr.wf : Instr → Bool
  | .nop => true
  | .lock => true
  | .dec t => selFits t
  | .enc t _ _ => selFits t
  | .chkv t => selFits t
  | .rxw g => idxFits g
  | .drain g => idxFits g
  | .tick g => idxFits g
  | .getd g _ => idxFits g
  | .getw g _ => idxFits g
  | .lprst e => idxFits e
  | .lppre e => idxFits e
  | .lpstep e => idxFits e
  | .lpspool e t _ => idxFits e && selFits t
  | .dfrst e => idxFits e
  | .dfpre e => idxFits e
  | .dfstep e => idxFits e
  | .dfspool e t _ => idxFits e && selFits t

/-- A command that has an encoding. -/
abbrev Instr.WellFormed (i : Instr) : Prop := i.wf = true

end Sys2Proof
end

