-- ==== Sys2Proof/Decode.lean ====
section
/-! DEFINITION. The command word (rules R106-R112): the decoder, total on every word and on every byte list, and the
encoder. -/

namespace Sys2Proof

/-- Why a command word matches no row of rule R109 (rules R110, R111), or why bytes are no command word. -/
inductive DecodeError where
  /-- RSV, bits 31:25, is not 0. -/
  | reservedBits
  /-- The opcode is not in the map of rule R108. -/
  | reservedOpcode (opc : BitVec 8)
  /-- A field the opcode does not use is not 0. -/
  | unusedField
  /-- Fewer than four bytes: every command is exactly one 32-bit word (rule R112). -/
  | truncated
  deriving DecidableEq, Repr

/-- The fields of a command word (rule R106). -/
structure CmdFields where
  opc : BitVec 8
  idx : BitVec 4
  sel : BitVec 8
  ssm : BitVec 2
  sdi : BitVec 2
  v : BitVec 1
  rsv : BitVec 7
  deriving DecidableEq, Repr

/-- Pulls the fields out of a command word (rule R106). -/
def cmdFields (c : Word) : CmdFields where
  opc := c.extractLsb' 0 8
  idx := c.extractLsb' 8 4
  sel := c.extractLsb' 12 8
  ssm := c.extractLsb' 20 2
  sdi := c.extractLsb' 22 2
  v := c.extractLsb' 24 1
  rsv := c.extractLsb' 25 7

/-- Puts the fields together (rule R106). -/
def cmdWord (f : CmdFields) : Word :=
  f.rsv ++ f.v ++ f.sdi ++ f.ssm ++ f.sel ++ f.idx ++ f.opc

/-- The command `i`, if the fields its row does not use are 0 (rules R108-R110). -/
def requireZero (zero : Bool) (i : Instr) : Except DecodeError Instr :=
  if zero then .ok i else .error .unusedField

/-- The opcode map (rule R108), on the fields of a word whose RSV is 0. -/
def decodeFields (f : CmdFields) : Except DecodeError Instr :=
  let noIdx := f.idx == 0
  let noSel := f.sel == 0
  let noSs := f.ssm == 0 && f.sdi == 0
  let noV := f.v == 0
  let idx := f.idx.toNat
  let sel := f.sel.toNat
  let valid := f.v == 1
  match f.opc with
  | 0x00#8 => requireZero (noIdx && noSel && noSs && noV) .nop
  | 0x01#8 => requireZero (noIdx && noSel && noSs && noV) .lock
  | 0x10#8 => requireZero (noIdx && noSs && noV) (.dec sel)
  | 0x11#8 => requireZero (noIdx && noV) (.enc sel f.ssm f.sdi)
  | 0x12#8 => requireZero (noIdx && noSs && noV) (.chkv sel)
  | 0x20#8 => requireZero (noSel && noSs && noV) (.rxw idx)
  | 0x21#8 => requireZero (noSel && noSs && noV) (.drain idx)
  | 0x22#8 => requireZero (noSel && noSs && noV) (.tick idx)
  | 0x23#8 => requireZero (noSs && noV) (.getd idx f.sel)
  | 0x24#8 => requireZero (noSs && noV) (.getw idx f.sel)
  | 0x30#8 => requireZero (noSel && noSs && noV) (.lprst idx)
  | 0x31#8 => requireZero (noSel && noSs && noV) (.lppre idx)
  | 0x32#8 => requireZero (noSel && noSs && noV) (.lpstep idx)
  | 0x34#8 => requireZero noSs (.lpspool idx sel valid)
  | 0x38#8 => requireZero (noSel && noSs && noV) (.dfrst idx)
  | 0x39#8 => requireZero (noSel && noSs && noV) (.dfpre idx)
  | 0x3A#8 => requireZero (noSel && noSs && noV) (.dfstep idx)
  | 0x3C#8 => requireZero noSs (.dfspool idx sel valid)
  | opc => .error (.reservedOpcode opc)

/-- Decodes a command word (rules R108-R111). -/
def decode (c : Word) : Except DecodeError Instr :=
  let f := cmdFields c
  if f.rsv = 0 then decodeFields f else .error .reservedBits

/-- The 32-bit register that four byte lanes make, lowest address first (rule R74). -/
def wordOfBytes (b0 b1 b2 b3 : Byte) : Word := b3 ++ b2 ++ b1 ++ b0

/-- The byte lanes of a register, lowest address first (rule R74). -/
def bytesOfWord (w : Word) : List Byte :=
  [w.extractLsb' 0 8, w.extractLsb' 8 8, w.extractLsb' 16 8, w.extractLsb' 24 8]

/-- Decodes the first command of a byte list and gives the bytes after it. -/
def decodeBytes : List Byte → Except DecodeError (Instr × List Byte)
  | b0 :: b1 :: b2 :: b3 :: rest =>
    match decode (wordOfBytes b0 b1 b2 b3) with
    | .ok i => .ok (i, rest)
    | .error r => .error r
  | _ => .error .truncated

/-- The opcode of a command (rule R108). -/
def Instr.opc : Instr → BitVec 8
  | .nop => 0x00
  | .lock => 0x01
  | .dec _ => 0x10
  | .enc _ _ _ => 0x11
  | .chkv _ => 0x12
  | .rxw _ => 0x20
  | .drain _ => 0x21
  | .tick _ => 0x22
  | .getd _ _ => 0x23
  | .getw _ _ => 0x24
  | .lprst _ => 0x30
  | .lppre _ => 0x31
  | .lpstep _ => 0x32
  | .lpspool _ _ _ => 0x34
  | .dfrst _ => 0x38
  | .dfpre _ => 0x39
  | .dfstep _ => 0x3A
  | .dfspool _ _ _ => 0x3C

/-- The fields of a word with opcode `opc` and every other field 0. -/
def plainFields (opc : BitVec 8) : CmdFields := ⟨opc, 0, 0, 0, 0, 0, 0⟩

/-- The fields of a command (rules R106-R108). -/
def encodeFields (i : Instr) : CmdFields :=
  let base := plainFields i.opc
  match i with
  | .nop => base
  | .lock => base
  | .dec t => { base with sel := BitVec.ofNat 8 t }
  | .enc t ssm sdi => { base with sel := BitVec.ofNat 8 t, ssm := ssm, sdi := sdi }
  | .chkv t => { base with sel := BitVec.ofNat 8 t }
  | .rxw g => { base with idx := BitVec.ofNat 4 g }
  | .drain g => { base with idx := BitVec.ofNat 4 g }
  | .tick g => { base with idx := BitVec.ofNat 4 g }
  | .getd g label => { base with idx := BitVec.ofNat 4 g, sel := label }
  | .getw g octal => { base with idx := BitVec.ofNat 4 g, sel := octal }
  | .lprst e => { base with idx := BitVec.ofNat 4 e }
  | .lppre e => { base with idx := BitVec.ofNat 4 e }
  | .lpstep e => { base with idx := BitVec.ofNat 4 e }
  | .lpspool e t valid =>
    { base with idx := BitVec.ofNat 4 e, sel := BitVec.ofNat 8 t, v := BitVec.ofBool valid }
  | .dfrst e => { base with idx := BitVec.ofNat 4 e }
  | .dfpre e => { base with idx := BitVec.ofNat 4 e }
  | .dfstep e => { base with idx := BitVec.ofNat 4 e }
  | .dfspool e t valid =>
    { base with idx := BitVec.ofNat 4 e, sel := BitVec.ofNat 8 t, v := BitVec.ofBool valid }

/-- The word of a command (rule R113). -/
def encode (i : Instr) : Word := cmdWord (encodeFields i)

/-- The bytes of the `nbits` low bits of `w`, the bits above them 0, as the four lanes of one register: the
instruction's bits as spec/opcode_table.json numbers them. -/
def tableWord (nbits w : Nat) : Word := BitVec.ofNat 32 (w % 2 ^ nbits)

/-- What the decoder reads from the instruction whose bits are `w`. -/
def decodeTableWord (nbits w : Nat) : Option Instr :=
  match decodeBytes (bytesOfWord (tableWord nbits w)) with
  | .ok (i, _) => some i
  | .error _ => none

end Sys2Proof
end

