-- ==== Sys2Proof/Config.lean ====
section
/-! DEFINITION. What is fixed for the machine (rules R8, R37, R42, R80) and the free values the spec leaves open (rule R12). -/

namespace Sys2Proof.Config

/-- NCT and NSLOT: entries of the codec table and of each group (rule R8). -/
abbrev tableSize : Nat := 64

/-- DRAIN_MAX: the most words one DRAIN reads (rule R8). -/
def drainMax : Nat := 32

/-- SPOOL_THRESHOLD: a filter is good when its count exceeds it (rule R8). -/
def spoolThreshold : Word := 10

/-- The identification registers (rule R37). -/
def idValue : Word := 0x41343239
def versionValue : Word := 0x00010000

/-- Default NGRP, NLP and NDF (rule R8): the sizes `State.reset` has. -/
def defaultGroups : Nat := 3
def defaultLowPass : Nat := 1
def defaultDiffs : Nat := 1

/-- Default PORT_PRESENT (rule R8). -/
def defaultPorts : List Bool := [true, true, false]

/-- Reset values of the filter coefficients (rules R42, R80, R301). -/
def lpK1 : Flt := 0x3FE8E3794C1C3845
def lpK2 : Flt := 0x3FCC721ACF8F1EEC
def dfK1 : Flt := 0x3FEFAE147AE147AE
def dfFs : Flt := 0x4049000000000000
def dfUl : Flt := 0x4066800000000000
def dfLl : Flt := 0xC066800000000000
def dfUd : Flt := 0x4076800000000000
def dfLd : Flt := 0xC076800000000000

/-- The bits a NaN result is made from, one draw for each value of the counter `State.free`: the pattern of a NaN
result is not fixed (rule R12, U17). `Flt.toNaN` turns any draw into a NaN and leaves every NaN as it is, so every
NaN is possible. No body: nothing can be proved of the pattern (log 6). -/
opaque nanDraw : Nat → Flt

/-- The integer `round_half_away` gives for a NaN: rule R13 defines the function for operands that are not NaN only.
No reachable state asks for it (log 7). -/
opaque roundOfNaN : Flt → Int

end Sys2Proof.Config
end

