-- ==== Sys2Proof/Machine/Flt.lean ====
section
/-! DEFINITION. IEEE 754 binary64 on encodings (rules R12, R13, R230): exact integer arithmetic, one rounding to
nearest, ties to even, subnormals kept. An operation whose result is NaN answers the NaN `nan` it is given, a free
value the caller draws (log 6). -/

namespace Sys2Proof.Machine

/-- The sign bit. -/
def Flt.sign (x : Flt) : Bool := x.getLsbD 63

/-- The biased exponent field. -/
def Flt.expo (x : Flt) : Nat := x.toNat / 2 ^ 52 % 2 ^ 11

/-- The fraction field. -/
def Flt.frac (x : Flt) : Nat := x.toNat % 2 ^ 52

def Flt.isNaN (x : Flt) : Bool := Flt.expo x == 2047 && Flt.frac x != 0

def Flt.isInf (x : Flt) : Bool := Flt.expo x == 2047 && Flt.frac x == 0

def Flt.isZero (x : Flt) : Bool := Flt.expo x == 0 && Flt.frac x == 0

def Flt.isFinite (x : Flt) : Bool := Flt.expo x != 2047

/-- The integer significand of a finite value, which is (−1)^sign · mant · 2^exp. -/
def Flt.mant (x : Flt) : Nat := if Flt.expo x = 0 then Flt.frac x else Flt.frac x + 2 ^ 52

/-- The exponent of the integer significand. -/
def Flt.exp (x : Flt) : Int := (max (Flt.expo x) 1 : Nat) - 1075

/-- ±0.0. -/
def Flt.zero (s : Bool) : Flt := if s then 0x8000000000000000 else 0

/-- ±Inf. -/
def Flt.inf (s : Bool) : Flt := if s then 0xFFF0000000000000 else 0x7FF0000000000000

/-- Flips the sign bit. -/
def Flt.neg (x : Flt) : Flt := x ^^^ 0x8000000000000000

/-- Turns any bits into a NaN, and leaves every NaN as it is (log 6). -/
def Flt.toNaN (b : Flt) : Flt := if Flt.isNaN b then b else b ||| 0x7FF8000000000000

/-- m / 2^k rounded to the nearest integer, ties to even. -/
def Flt.roundShift (m k : Nat) : Nat :=
  let q := m / 2 ^ k
  let r := 2 * (m % 2 ^ k)
  if r > 2 ^ k || (r == 2 ^ k && q % 2 == 1) then q + 1 else q

/-- The binary64 value nearest to ±m·2^e, ties to even, with overflow to ±Inf (rule R12). `q` is the exponent of the
result's last place: 53 significant bits, but never below that of the subnormals. -/
def Flt.round (s : Bool) (m : Nat) (e : Int) : Flt :=
  if m = 0 then Flt.zero s
  else
    let q : Int := max (e + Nat.log2 m - 52) (-1074)
    let sig := if q ≤ e then m * 2 ^ (e - q).toNat else Flt.roundShift m (q - e).toNat
    let bits := (q + 1074).toNat * 2 ^ 52 + sig
    if bits ≥ 2047 * 2 ^ 52 then Flt.inf s
    else Flt.zero s ||| BitVec.ofNat 64 bits

/-- x ⊕ y (rule R12). The exact sum is taken at the smaller exponent; an exact zero sum is −0.0 only for two
negative-signed operands. -/
def Flt.add (nan x y : Flt) : Flt :=
  if Flt.isNaN x || Flt.isNaN y then nan
  else if Flt.isInf x then
    if Flt.isInf y && Flt.sign x != Flt.sign y then nan else x
  else if Flt.isInf y then y
  else
    let e := min (Flt.exp x) (Flt.exp y)
    let at_ (v : Flt) : Int :=
      (if Flt.sign v then -1 else 1) * (Flt.mant v * 2 ^ (Flt.exp v - e).toNat : Nat)
    let z := at_ x + at_ y
    if z = 0 then Flt.zero (Flt.sign x && Flt.sign y)
    else Flt.round (z < 0) z.natAbs e

/-- x ⊖ y (rule R12). -/
def Flt.sub (nan x y : Flt) : Flt := Flt.add nan x (Flt.neg y)

/-- x ⊗ y (rule R12). -/
def Flt.mul (nan x y : Flt) : Flt :=
  let s := Flt.sign x != Flt.sign y
  if Flt.isNaN x || Flt.isNaN y then nan
  else if Flt.isInf x then if Flt.isZero y then nan else Flt.inf s
  else if Flt.isInf y then if Flt.isZero x then nan else Flt.inf s
  else Flt.round s (Flt.mant x * Flt.mant y) (Flt.exp x + Flt.exp y)

/-- x ⊘ y (rule R12). The quotient is taken to more than 66 bits, its last bit standing for a nonzero remainder. -/
def Flt.div (nan x y : Flt) : Flt :=
  let s := Flt.sign x != Flt.sign y
  if Flt.isNaN x || Flt.isNaN y then nan
  else if Flt.isInf x then if Flt.isInf y then nan else Flt.inf s
  else if Flt.isInf y then Flt.zero s
  else if Flt.isZero y then if Flt.isZero x then nan else Flt.inf s
  else
    let n := Flt.mant x * 2 ^ 120
    let d := Flt.mant y
    let sticky := if n % d = 0 then 0 else 1
    Flt.round s (2 * (n / d) + sticky) (Flt.exp x - Flt.exp y - 121)

/-- Orders the values that are not NaN; both zeros have key 0. -/
def Flt.key (x : Flt) : Int :=
  if Flt.sign x then -(x.toNat % 2 ^ 63 : Nat) else (x.toNat % 2 ^ 63 : Nat)

/-- x < y, false when either is NaN (rule R12). -/
def Flt.lt (x y : Flt) : Bool :=
  !Flt.isNaN x && !Flt.isNaN y && decide (Flt.key x < Flt.key y)

/-- `flt(z)` (rule R12). -/
def Flt.ofInt (z : Int) : Flt := Flt.round (z < 0) z.natAbs 0

/-- An integer, or one of ±∞ (rule R13). -/
inductive ExtInt where
  | negInf
  | fin (z : Int)
  | posInf
  deriving DecidableEq, Repr

/-- m / 2^k rounded to the nearest integer, ties up. -/
def Flt.roundUpHalf (m k : Nat) : Nat := (2 * m + 2 ^ k) / 2 ^ (k + 1)

/-- `round_half_away(x)` (rule R13); for a NaN, where the rule defines nothing, a free integer (log 7). -/
def Flt.roundHalfAway (x : Flt) : ExtInt :=
  if Flt.isNaN x then .fin (Config.roundOfNaN x)
  else if Flt.isInf x then if Flt.sign x then .negInf else .posInf
  else
    let n : Nat :=
      if 0 ≤ Flt.exp x then Flt.mant x * 2 ^ (Flt.exp x).toNat
      else Flt.roundUpHalf (Flt.mant x) (-Flt.exp x).toNat
    .fin (if Flt.sign x then -(n : Int) else n)

/-- `clamp_i32(z)` (rule R13). -/
def clampI32 : ExtInt → Int
  | .negInf => -2 ^ 31
  | .fin z => min (max z (-2 ^ 31)) (2 ^ 31 - 1)
  | .posInf => 2 ^ 31 - 1

/-- `clamp(v, lo, hi)` (rule R231). -/
def Flt.clamp (v lo hi : Flt) : Flt :=
  if Flt.lt v lo then lo else if Flt.lt hi v then hi else v

end Sys2Proof.Machine
end

