-- ==== Sys2Proof/Machine/Bits.lean ====
section
/-! DEFINITION. The bit and integer operations of the notation (rules R10, R11, R14, R15). -/

namespace Sys2Proof.Machine

/-- `mask(k)` = 2^k − 1 as a word (rule R10). -/
def mask (k : Nat) : Word := BitVec.ofNat 32 (2 ^ k - 1)

/-- `w[lo+k-1 : lo]`, zero extended: `(w >> lo) & mask(k)`. -/
def field (w : Word) (lo k : Nat) : Word := (w >>> lo) &&& mask k

/-- `sext_N(v)` of an N-bit unsigned value (rule R11). -/
def sext (n v : Nat) : Int := if 2 ^ (n - 1) ≤ v then (v : Int) - 2 ^ n else v

/-- `to_u32(z)` = z mod 2^32 (rule R11). -/
def toU32 (z : Int) : Word := BitVec.ofInt 32 z

/-- `rev8(b)`: bit k of the result is b[7−k] (rule R14). -/
def rev8 (b : BitVec 8) : BitVec 8 :=
  BitVec.ofBool (b.getLsbD 0) ++ BitVec.ofBool (b.getLsbD 1) ++ BitVec.ofBool (b.getLsbD 2) ++
    BitVec.ofBool (b.getLsbD 3) ++ BitVec.ofBool (b.getLsbD 4) ++ BitVec.ofBool (b.getLsbD 5) ++
    BitVec.ofBool (b.getLsbD 6) ++ BitVec.ofBool (b.getLsbD 7)

/-- `elapsed(now, t)` = (now − t) mod 2^32 (rule R15). -/
def elapsed (now t : Word) : Word := now - t

/-- A boolean as a word, 1 or 0. -/
def bit (b : Bool) : Word := if b then 1 else 0

/-- One half of a binary64 register pair (rule R75). -/
inductive Half where
  | lo
  | hi
  deriving DecidableEq, Repr

/-- Bits 31:0 or bits 63:32 of a binary64 encoding (rule R75). -/
def half (x : Flt) : Half → Word
  | .lo => x.extractLsb' 0 32
  | .hi => x.extractLsb' 32 32

/-- Writes one half and keeps the other (rules R75, R87). -/
def setHalf (x : Flt) (h : Half) (v : Word) : Flt :=
  match h with
  | .lo => half x .hi ++ v
  | .hi => v ++ half x .lo

end Sys2Proof.Machine
end

