-- ==== Sys2Proof/Machine/State.lean ====
section
/-! DEFINITION. The state of the block, of its environment and of the moves still to come, as plain data; the machine
right after reset (rules R30-R50, R300-R302). -/

namespace Sys2Proof.Machine

/-- What stops the machine: nothing does. A command that fails ends with a result code and the block takes the next
one (rules R270, R280); a bus error is the answer to one host transaction (rules R16, R277). So there is no constructor. -/
inductive Fault where
  deriving DecidableEq, Repr

/-- Why a command has no meaning in this model. -/
inductive Refusal where
  /-- A command not modelled, by its mnemonic. Nothing raises it: every command of rule R108 has its meaning. It would
  be safe, since the machine stops. -/
  | notModelled (mnemonic : String)
  deriving DecidableEq, Repr

/-- What a step of this machine answers. -/
abbrev Outcome (σ : Type) := Host.Outcome σ Fault Refusal

/-- The code a command ends with (rule R270). -/
inductive ResultCode where
  | success
  | sentDataClipped
  | noMatchingLabel
  | invalidArgument
  | invalidMessage
  | invalidMsgData
  | error
  | illegalCommand
  | notLocked
  deriving DecidableEq, Repr

/-- The message type of a label configuration, CFG0[9:8] (rule R39). -/
inductive MsgType where
  | bnr
  | bcd
  | discrete
  /-- Type code 3; LOCK refuses an entry that has it (rule R132). -/
  | reserved
  deriving DecidableEq, Repr

/-- A LabelConfig entry (rule R39). The first seven fields are those of CFG0. -/
structure LabelConfig where
  label : BitVec 8
  msgType : MsgType
  nsig : BitVec 5
  ndisc : BitVec 5
  minvEn : Bool
  maxvEn : Bool
  /-- Codec table only; in a group entry the bit is reserved and reads 0. -/
  en : Bool
  minTx : Word
  maxTx : Word
  res : Flt
  minv : Flt
  maxv : Flt
  deriving DecidableEq, Repr

/-- Every field 0 (rule R301). -/
def LabelConfig.reset : LabelConfig := ⟨0, .bnr, 0, 0, false, false, false, 0, 0, 0, 0, 0⟩

/-- A slot, the live state of one group entry (rule R43). `engi` holds an `i32` in two's complement. -/
structure Slot where
  raw : Word
  sm : BitVec 2
  sdi : BitVec 2
  engf : Flt
  engi : Word
  disc : Word
  lastGood : Word
  nb : Bool
  deriving DecidableEq, Repr

/-- Every field 0 (rule R301). -/
def Slot.reset : Slot := ⟨0, 0, 0, 0, 0, 0, 0, false⟩

/-- A receive group: its configuration, slots and counters (rules R41, R43, R44). -/
structure Group where
  num : BitVec 7
  maxbf : Word
  entries : Vector LabelConfig Config.tableSize
  slots : Vector Slot Config.tableSize
  cnt : Word
  failed : Bool
  deriving DecidableEq, Repr

/-- A group after reset (rule R301). -/
def Group.reset : Group :=
  ⟨0, 0, Vector.replicate _ LabelConfig.reset, Vector.replicate _ Slot.reset, 0, false⟩

/-- The spool state of one engine (rule R47). -/
structure Spool where
  good : Bool
  count : Word
  deriving DecidableEq, Repr

/-- A low-pass engine (rules R42, R45, R47). -/
structure LowPass where
  k1 : Flt
  k2 : Flt
  prev : Flt
  pre : Bool
  spool : Spool
  deriving DecidableEq, Repr

/-- A low-pass engine after reset (rules R80, R301). -/
def LowPass.reset : LowPass := ⟨Config.lpK1, Config.lpK2, 0, false, ⟨false, 0⟩⟩

/-- A differentiator engine (rules R42, R46, R47). -/
structure Diff where
  k1 : Flt
  fs : Flt
  ul : Flt
  ll : Flt
  ud : Flt
  ld : Flt
  pin : Flt
  pout : Flt
  spool : Spool
  deriving DecidableEq, Repr

/-- A differentiator engine after reset (rules R80, R301). -/
def Diff.reset : Diff :=
  ⟨Config.dfK1, Config.dfFs, Config.dfUl, Config.dfLl, Config.dfUd, Config.dfLd, 0, 0, ⟨false, 0⟩⟩

/-- A receive port: PORT_PRESENT[g] and the environment's queue Q[g], head first (rule R85). -/
structure Port where
  present : Bool
  queue : List Word
  deriving DecidableEq, Repr

/-- The environment (rules R7, R30, R84, R85): the level of `now_ms`, and one receive port per group. -/
structure Env where
  now : Word
  ports : List Port
  deriving DecidableEq, Repr

/-- A DRAIN between two of its iterations (rule R205): its group, the words read and the words that succeeded. -/
structure DrainProgress where
  grp : Nat
  nread : Nat
  nok : Nat
  deriving DecidableEq, Repr

/-- A host transaction (rules R70, R76): a byte address, a width in bytes, and the value of a write. -/
inductive Txn where
  | read (addr : BitVec 16) (bytes : Nat)
  | write (addr : BitVec 16) (bytes : Nat) (value : Word)
  deriving DecidableEq, Repr

/-- One move of the host or of the environment (rules R7, R114, R300). -/
inductive Event where
  /-- The host issues a transaction. -/
  | host (t : Txn)
  /-- `now_ms` takes a new level. -/
  | now (n : Word)
  /-- Words are appended to a receive queue. -/
  | deliver (g : Nat) (ws : List Word)
  /-- Host and environment wait while a running DRAIN takes one iteration (rules R72, R205). -/
  | pause
  /-- The reset input is asserted. -/
  | reset
  deriving DecidableEq, Repr

/-- What the host port answered last (rules R72, R76). -/
inductive Response where
  /-- Nothing yet. -/
  | idle
  /-- The port stalls the host: a DRAIN is running. -/
  | stalled
  /-- A write is complete. -/
  | done
  /-- A read is complete. -/
  | data (value : Word)
  /-- The access broke rule R73. -/
  | busError
  deriving DecidableEq, Repr

/-- The whole state. `locked` to `df` are the block's (rules R30-R47), `drain` a command in progress, `env` the
environment's, `agenda` the moves to come (log 1), `resp` the port's last answer (log 4), `free` the number of free
NaN draws used (log 6). NGRP, NLP and NDF are the lengths of `groups`, `lp` and `df` (log 9). -/
structure State where
  locked : Bool
  cfgErr : Bool
  cmdErr : Bool
  result : Word
  errinfo : Word
  opw : Word
  opd : Word
  opa : Flt
  outw : Word
  outd : Word
  outa : Flt
  outi : Word
  outf : Word
  outt : Word
  ct : Vector LabelConfig Config.tableSize
  groups : List Group
  lp : List LowPass
  df : List Diff
  drain : Option DrainProgress
  env : Env
  agenda : List Event
  resp : Response
  free : Nat
  deriving DecidableEq, Repr

/-- The block's registers after reset in an implementation with the sizes given (rule R301), in an environment and
with moves to come that reset leaves alone (rule R302). -/
def State.resetWith (ngrp nlp ndf : Nat) (env : Env) (agenda : List Event) (free : Nat) : State where
  locked := false
  cfgErr := false
  cmdErr := false
  result := 0
  errinfo := 0
  opw := 0
  opd := 0
  opa := 0
  outw := 0
  outd := 0
  outa := 0
  outi := 0
  outf := 0
  outt := 0
  ct := Vector.replicate _ LabelConfig.reset
  groups := List.replicate ngrp Group.reset
  lp := List.replicate nlp LowPass.reset
  df := List.replicate ndf Diff.reset
  drain := none
  env := env
  agenda := agenda
  resp := .idle
  free := free

/-- The machine right after reset, with the default parameters (rules R8, R301), `now_ms` at 0, empty queues and
nothing to come (logs 1, 2, 3). -/
def State.reset : State :=
  State.resetWith Config.defaultGroups Config.defaultLowPass Config.defaultDiffs
    ⟨0, Config.defaultPorts.map (⟨·, []⟩)⟩ [] 0

end Sys2Proof.Machine
end

