-- ==== Sys2Proof/Machine/Flags.lean ====
section
/-! DEFINITION. The status, result and flag words, and the packed words of the tables (rules R33-R37, R39, R43, R80-R82,
R270). -/

namespace Sys2Proof.Machine

/-- The number of a result code (rule R270). -/
def ResultCode.code : ResultCode → BitVec 8
  | .success => 0
  | .sentDataClipped => 1
  | .noMatchingLabel => 2
  | .invalidArgument => 3
  | .invalidMessage => 4
  | .invalidMsgData => 5
  | .error => 6
  | .illegalCommand => 7
  | .notLocked => 8

/-- RESULT: code in 7:0, opcode in 15:8, 0 above (rules R34, R270). -/
def resultWord (code : ResultCode) (opc : BitVec 8) : Word :=
  code.code.setWidth 32 ||| (opc.setWidth 32 <<< 8)

/-- STATUS (rule R35). -/
def statusWord (s : State) : Word :=
  bit s.locked ||| (bit s.cfgErr <<< 1) ||| (bit s.cmdErr <<< 2)

/-- ERRINFO = reason | table << 4 | g << 8 | idx << 12 (rules R36, R131). -/
def errinfoWord (reason table g idx : Nat) : Word :=
  BitVec.ofNat 32 reason ||| (BitVec.ofNat 32 table <<< 4) ||| (BitVec.ofNat 32 g <<< 8) |||
    (BitVec.ofNat 32 idx <<< 12)

/-- PARAMS (rule R37). -/
def paramsWord (s : State) : Word :=
  BitVec.ofNat 32 (s.groups.length + 16 * s.lp.length + 256 * s.df.length + 4096 * Config.tableSize +
    524288 * Config.tableSize)

/-- OUTF, every field given (rule R33). -/
def outfWord (ssm sdi : BitVec 2) (fresh nb bool : Bool) : Word :=
  ssm.setWidth 32 ||| (sdi.setWidth 32 <<< 2) ||| (bit fresh <<< 4) ||| (bit nb <<< 5) ||| (bit bool <<< 6)

/-- OUTF with only SSM and SDI (rules R33, R160). -/
def outfSsm (ssm sdi : BitVec 2) : Word := outfWord ssm sdi false false false

/-- OUTF with only BOOL (rules R33, R210, R225). -/
def outfBool (b : Bool) : Word := outfWord 0 0 false false b

/-- BNR_FW and BNR_NO, the two SSM values the block itself produces (rule R103). -/
def bnrFW : BitVec 2 := 0
def bnrNO : BitVec 2 := 3

/-- The type code of CFG0[9:8] (rule R39). -/
def MsgType.code : MsgType → BitVec 2
  | .bnr => 0
  | .bcd => 1
  | .discrete => 2
  | .reserved => 3

/-- The message type of a type code (rule R39). -/
def msgTypeOf (code : BitVec 2) : MsgType :=
  if code = 0 then .bnr else if code = 1 then .bcd else if code = 2 then .discrete else .reserved

/-- CFG0 of an entry; `hasEn` says whether bit 31 exists, as it does in the codec table (rules R39, R81, R82). -/
def cfg0Word (hasEn : Bool) (c : LabelConfig) : Word :=
  c.label.setWidth 32 ||| (c.msgType.code.setWidth 32 <<< 8) ||| (c.nsig.setWidth 32 <<< 10) |||
    (c.ndisc.setWidth 32 <<< 15) ||| (bit c.minvEn <<< 20) ||| (bit c.maxvEn <<< 21) |||
    (bit (hasEn && c.en) <<< 31)

/-- Writes CFG0; the reserved bits, and bit 31 where it does not exist, are ignored (rules R39, R77). -/
def setCfg0 (hasEn : Bool) (c : LabelConfig) (v : Word) : LabelConfig :=
  { c with
    label := v.extractLsb' 0 8
    msgType := msgTypeOf (v.extractLsb' 8 2)
    nsig := v.extractLsb' 10 5
    ndisc := v.extractLsb' 15 5
    minvEn := v.getLsbD 20
    maxvEn := v.getLsbD 21
    en := if hasEn then v.getLsbD 31 else c.en }

/-- S_FLAGS (rule R82). -/
def slotFlagsWord (x : Slot) : Word :=
  x.sm.setWidth 32 ||| (x.sdi.setWidth 32 <<< 2) ||| (bit x.nb <<< 4)

/-- LP_STAT (rule R80). -/
def lpStatWord (l : LowPass) : Word := bit l.pre ||| (bit l.spool.good <<< 1)

/-- DF_STAT (rule R80). -/
def dfStatWord (d : Diff) : Word := bit d.spool.good <<< 1

end Sys2Proof.Machine
end

