-- ==== Sys2Proof/Machine/Regs.lean ====
section
/-! DEFINITION. The host register space: the registers by name, their addresses, reading and writing them (rules
R70-R82, R48). -/

namespace Sys2Proof.Machine

/-- A register of a LabelConfig entry (rule R81). -/
inductive CfgReg where
  | cfg0
  | minTx
  | maxTx
  | res (h : Half)
  | minv (h : Half)
  | maxv (h : Half)
  deriving DecidableEq, Repr

/-- A register of a slot (rule R82). -/
inductive SlotReg where
  | raw
  | flags
  | engf (h : Half)
  | engi
  | disc
  | lastGood
  deriving DecidableEq, Repr

/-- A register of a low-pass engine (rule R80). -/
inductive LpReg where
  | k1 (h : Half)
  | k2 (h : Half)
  | prev (h : Half)
  | stat
  | spcnt
  deriving DecidableEq, Repr

/-- A register of a differentiator engine (rule R80). -/
inductive DfReg where
  | k1 (h : Half)
  | fs (h : Half)
  | ul (h : Half)
  | ll (h : Half)
  | ud (h : Half)
  | ld (h : Half)
  | pin (h : Half)
  | pout (h : Half)
  | stat
  | spcnt
  deriving DecidableEq, Repr

/-- A register of the host register space by its name (rules R79-R82). A group or engine index may name one the
implementation does not have; such a register is unmapped (rule R77). -/
inductive Reg where
  | id
  | version
  | params
  | status
  | cmd
  | result
  | errinfo
  | now
  | opw
  | opd
  | opa (h : Half)
  | outw
  | outd
  | outa (h : Half)
  | outi
  | outf
  | outt
  | gnum (g : Nat)
  | gmaxbf (g : Nat)
  | gcnt (g : Nat)
  | gstat (g : Nat)
  | lp (e : Nat) (r : LpReg)
  | df (e : Nat) (r : DfReg)
  | ct (t : Fin Config.tableSize) (r : CfgReg)
  | entry (g : Nat) (j : Fin Config.tableSize) (r : CfgReg)
  | slot (g : Nat) (j : Fin Config.tableSize) (r : SlotReg)
  deriving DecidableEq, Repr

/-- The control, operand and output registers by address (rule R79). -/
def controlMap : List (Nat × Reg) :=
  [(0x0000, .id), (0x0004, .version), (0x0008, .params), (0x000C, .status), (0x0010, .cmd), (0x0014, .result),
   (0x0018, .errinfo), (0x001C, .now), (0x0020, .opw), (0x0024, .opd), (0x0028, .opa .lo), (0x002C, .opa .hi),
   (0x0030, .outw), (0x0034, .outd), (0x0038, .outa .lo), (0x003C, .outa .hi), (0x0040, .outi), (0x0044, .outf),
   (0x0048, .outt)]

/-- The registers of group `g` by offset (rule R80). -/
def groupMap (g : Nat) : List (Nat × Reg) :=
  [(0x0, .gnum g), (0x4, .gmaxbf g), (0x8, .gcnt g), (0xC, .gstat g)]

/-- The registers of a low-pass engine by offset (rule R80). -/
def lpMap : List (Nat × LpReg) :=
  [(0x00, .k1 .lo), (0x04, .k1 .hi), (0x08, .k2 .lo), (0x0C, .k2 .hi), (0x10, .prev .lo), (0x14, .prev .hi),
   (0x18, .stat), (0x1C, .spcnt)]

/-- The registers of a differentiator engine by offset (rule R80). -/
def dfMap : List (Nat × DfReg) :=
  [(0x00, .k1 .lo), (0x04, .k1 .hi), (0x08, .fs .lo), (0x0C, .fs .hi), (0x10, .ul .lo), (0x14, .ul .hi),
   (0x18, .ll .lo), (0x1C, .ll .hi), (0x20, .ud .lo), (0x24, .ud .hi), (0x28, .ld .lo), (0x2C, .ld .hi),
   (0x30, .pin .lo), (0x34, .pin .hi), (0x38, .pout .lo), (0x3C, .pout .hi), (0x40, .stat), (0x44, .spcnt)]

/-- The registers of a LabelConfig entry by offset (rule R81). -/
def cfgMap : List (Nat × CfgReg) :=
  [(0x00, .cfg0), (0x04, .minTx), (0x08, .maxTx), (0x10, .res .lo), (0x14, .res .hi), (0x18, .minv .lo),
   (0x1C, .minv .hi), (0x20, .maxv .lo), (0x24, .maxv .hi)]

/-- The registers of a slot by offset in its entry (rule R82). -/
def slotMap : List (Nat × SlotReg) :=
  [(0x40, .raw), (0x44, .flags), (0x48, .engf .lo), (0x4C, .engf .hi), (0x50, .engi), (0x54, .disc),
   (0x58, .lastGood)]

/-- The entry index 0..63 of an offset into a table of `stride`-byte entries. -/
def tableIndex (off stride : Nat) : Fin Config.tableSize :=
  ⟨off / stride % Config.tableSize, Nat.mod_lt _ (by decide)⟩

/-- The register at a byte address, if a table of rules R79-R82 names one. The regions are sized for the largest
NGRP, NLP and NDF (rule R8). -/
def regAt (a : Nat) : Option Reg :=
  if a < 0x0100 then controlMap.lookup a
  else if a < 0x0140 then (groupMap ((a - 0x0100) / 0x10)).lookup ((a - 0x0100) % 0x10)
  else if 0x0200 ≤ a ∧ a < 0x0300 then
    (lpMap.lookup ((a - 0x0200) % 0x40)).map (.lp ((a - 0x0200) / 0x40))
  else if 0x0400 ≤ a ∧ a < 0x0600 then
    (dfMap.lookup ((a - 0x0400) % 0x80)).map (.df ((a - 0x0400) / 0x80))
  else if 0x0800 ≤ a ∧ a < 0x1800 then
    (cfgMap.lookup ((a - 0x0800) % 0x40)).map (.ct (tableIndex (a - 0x0800) 0x40))
  else if 0x2000 ≤ a ∧ a < 0xA000 then
    let g := (a - 0x2000) / 0x2000
    let j := tableIndex (a - 0x2000) 0x80
    let off := (a - 0x2000) % 0x80
    if off < 0x40 then (cfgMap.lookup off).map (.entry g j) else (slotMap.lookup off).map (.slot g j)
  else none

/-- Reads a register of a LabelConfig entry (rules R39, R81). -/
def readCfg (hasEn : Bool) (c : LabelConfig) : CfgReg → Word
  | .cfg0 => cfg0Word hasEn c
  | .minTx => c.minTx
  | .maxTx => c.maxTx
  | .res h => half c.res h
  | .minv h => half c.minv h
  | .maxv h => half c.maxv h

/-- Writes a register of a LabelConfig entry (rules R39, R81). -/
def writeCfg (hasEn : Bool) (c : LabelConfig) (r : CfgReg) (v : Word) : LabelConfig :=
  match r with
  | .cfg0 => setCfg0 hasEn c v
  | .minTx => { c with minTx := v }
  | .maxTx => { c with maxTx := v }
  | .res h => { c with res := setHalf c.res h v }
  | .minv h => { c with minv := setHalf c.minv h v }
  | .maxv h => { c with maxv := setHalf c.maxv h v }

/-- Reads a register of a slot (rules R43, R82). -/
def readSlot (x : Slot) : SlotReg → Word
  | .raw => x.raw
  | .flags => slotFlagsWord x
  | .engf h => half x.engf h
  | .engi => x.engi
  | .disc => x.disc
  | .lastGood => x.lastGood

/-- Reads a register of a low-pass engine (rule R80). -/
def readLp (l : LowPass) : LpReg → Word
  | .k1 h => half l.k1 h
  | .k2 h => half l.k2 h
  | .prev h => half l.prev h
  | .stat => lpStatWord l
  | .spcnt => l.spool.count

/-- Writes a register of a low-pass engine; only the coefficients are writable (rule R80). -/
def writeLp (l : LowPass) (r : LpReg) (v : Word) : LowPass :=
  match r with
  | .k1 h => { l with k1 := setHalf l.k1 h v }
  | .k2 h => { l with k2 := setHalf l.k2 h v }
  | .prev _ => l
  | .stat => l
  | .spcnt => l

/-- Reads a register of a differentiator engine (rule R80). -/
def readDf (d : Diff) : DfReg → Word
  | .k1 h => half d.k1 h
  | .fs h => half d.fs h
  | .ul h => half d.ul h
  | .ll h => half d.ll h
  | .ud h => half d.ud h
  | .ld h => half d.ld h
  | .pin h => half d.pin h
  | .pout h => half d.pout h
  | .stat => dfStatWord d
  | .spcnt => d.spool.count

/-- Writes a register of a differentiator engine; only the coefficients are writable (rule R80). -/
def writeDf (d : Diff) (r : DfReg) (v : Word) : Diff :=
  match r with
  | .k1 h => { d with k1 := setHalf d.k1 h v }
  | .fs h => { d with fs := setHalf d.fs h v }
  | .ul h => { d with ul := setHalf d.ul h v }
  | .ll h => { d with ll := setHalf d.ll h v }
  | .ud h => { d with ud := setHalf d.ud h v }
  | .ld h => { d with ld := setHalf d.ld h v }
  | .pin _ => d
  | .pout _ => d
  | .stat => d
  | .spcnt => d

/-- A word read from an element an index may not name; a register beyond NGRP, NLP or NDF reads 0 (rule R77). -/
def readAt {α : Type} (l : List α) (k : Nat) (f : α → Word) : Word :=
  match l[k]? with
  | some x => f x
  | none => 0

/-- Reads a register by name (rules R77-R82). NOW is one sample of `now_ms` (rule R38); CMD reads 0 (rule R78). -/
def readReg (s : State) : Reg → Word
  | .id => Config.idValue
  | .version => Config.versionValue
  | .params => paramsWord s
  | .status => statusWord s
  | .cmd => 0
  | .result => s.result
  | .errinfo => s.errinfo
  | .now => s.env.now
  | .opw => s.opw
  | .opd => s.opd
  | .opa h => half s.opa h
  | .outw => s.outw
  | .outd => s.outd
  | .outa h => half s.outa h
  | .outi => s.outi
  | .outf => s.outf
  | .outt => s.outt
  | .gnum g => readAt s.groups g fun G => G.num.setWidth 32
  | .gmaxbf g => readAt s.groups g fun G => G.maxbf
  | .gcnt g => readAt s.groups g fun G => G.cnt
  | .gstat g => readAt s.groups g fun G => bit G.failed
  | .lp e r => readAt s.lp e fun l => readLp l r
  | .df e r => readAt s.df e fun d => readDf d r
  | .ct t r => readCfg true s.ct[t] r
  | .entry g j r => readAt s.groups g fun G => readCfg false G.entries[j] r
  | .slot g j r => readAt s.groups g fun G => readSlot G.slots[j] r

/-- A configuration write: ignored while LOCKED = 1 (rules R48, R77). -/
def configWrite (s s' : State) : State := if s.locked then s else s'

/-- Writes a register by name, but for CMD, whose write runs a command (rules R72, R77-R82). A read-only register
ignores the write; STATUS clears CMDERR where bit 2 of the value is 1 (rule R35). -/
def writeReg (s : State) (r : Reg) (v : Word) : State :=
  match r with
  | .id => s
  | .version => s
  | .params => s
  | .status => { s with cmdErr := s.cmdErr && !v.getLsbD 2 }
  | .cmd => s
  | .result => s
  | .errinfo => s
  | .now => s
  | .opw => { s with opw := v }
  | .opd => { s with opd := v }
  | .opa h => { s with opa := setHalf s.opa h v }
  | .outw => s
  | .outd => s
  | .outa _ => s
  | .outi => s
  | .outf => s
  | .outt => s
  | .gnum g => configWrite s { s with groups := s.groups.modify g fun G => { G with num := v.setWidth 7 } }
  | .gmaxbf g => configWrite s { s with groups := s.groups.modify g fun G => { G with maxbf := v } }
  | .gcnt _ => s
  | .gstat _ => s
  | .lp e r => configWrite s { s with lp := s.lp.modify e fun l => writeLp l r v }
  | .df e r => configWrite s { s with df := s.df.modify e fun d => writeDf d r v }
  | .ct t r => configWrite s { s with ct := s.ct.set t (writeCfg true s.ct[t] r v) }
  | .entry g j r =>
    configWrite s
      { s with
        groups := s.groups.modify g fun G =>
          { G with entries := G.entries.set j (writeCfg false G.entries[j] r v) } }
  | .slot _ _ _ => s

/-- The register space as a host reads it (rules R77, R78). -/
def busRead (s : State) (a : BitVec 16) : Word :=
  match regAt a.toNat with
  | some r => readReg s r
  | none => 0

/-- A host write to an address other than CMD's (rules R77, R78). -/
def busWrite (s : State) (a : BitVec 16) (v : Word) : State :=
  match regAt a.toNat with
  | some r => writeReg s r v
  | none => s

/-- The register space as bytes, little-endian lanes (rule R74): lane `a % 4` of the register at `a − a % 4`. -/
def byteAt (s : State) (a : BitVec 16) : Byte :=
  (busRead s (a - a % 4)).extractLsb' (8 * (a.toNat % 4)) 8

end Sys2Proof.Machine
end

