-- ==== Sys2Proof/Machine/Ops.lean ====
section
/-! DEFINITION. The operations the commands share: ending a command with a result code, which is all that this block
has for taking an exception (rules R270-R275, R280); the inputs (rules R84, R85); free NaN draws (rule R12); reset. -/

namespace Sys2Proof.Machine

/-- `return Result(code)`: writes RESULT, and nothing else (rules R16, R34, R270). The block saves no state, changes no
mode and uses no vector (rule R280), so this is the whole of taking and of leaving an error. -/
def State.finish (s : State) (code : ResultCode) (opc : BitVec 8) : State :=
  { s with result := resultWord code opc }

/-- An illegal command word `c`: IllegalCommand with the word's opcode byte, and CMDERR set (rule R271). -/
def State.illegalCommand (s : State) (c : Word) : State :=
  { s with result := resultWord .illegalCommand (c.extractLsb' 0 8), cmdErr := true }

/-- Replaces group `g`. -/
def State.setGroup (s : State) (g : Nat) (G : Group) : State := { s with groups := s.groups.set g G }

/-- Replaces low-pass engine `e`. -/
def State.setLp (s : State) (e : Nat) (l : LowPass) : State := { s with lp := s.lp.set e l }

/-- Replaces differentiator engine `e`. -/
def State.setDf (s : State) (e : Nat) (d : Diff) : State := { s with df := s.df.set e d }

/-- The k-th free NaN of the command that runs now (rules R12, R230; log 6). -/
def State.nan (s : State) (k : Nat) : Flt := Flt.toNaN (Config.nanDraw (s.free + k))

/-- `k` draws are used up. -/
def State.draw (s : State) (k : Nat) : State := { s with free := s.free + k }

/-- `clock()`: one sample of `now_ms` (rule R84). -/
def State.clock (s : State) : Word := s.env.now

/-- `rx_ready(g)`: the port is present and its queue is not empty (rule R85). -/
def State.rxReady (s : State) (g : Nat) : Bool :=
  match s.env.ports[g]? with
  | some p => p.present && !p.queue.isEmpty
  | none => false

/-- The head of Q[g] (rule R85); read only where `rxReady` holds. -/
def State.rxHead (s : State) (g : Nat) : Word :=
  match s.env.ports[g]? with
  | some p => p.queue.headD 0
  | none => 0

/-- Takes the head off Q[g] (rule R85). -/
def State.rxDrop (s : State) (g : Nat) : State :=
  { s with env := { s.env with ports := s.env.ports.modify g fun p => { p with queue := p.queue.tail } } }

/-- Appends words to Q[g] (rule R85). -/
def State.rxAppend (s : State) (g : Nat) (ws : List Word) : State :=
  { s with env := { s.env with ports := s.env.ports.modify g fun p => { p with queue := p.queue ++ ws } } }

/-- The reset input (rules R300-R302): every state element of the block takes its reset value and a running command
is gone; the environment, the moves to come and the draws used stay. -/
def State.applyReset (s : State) : State :=
  State.resetWith s.groups.length s.lp.length s.df.length s.env s.agenda s.free

end Sys2Proof.Machine
end

