-- ==== Sys2Proof/Machine/Codec.lean ====
section
/-! DEFINITION. The codec functions (rules R150-R158), total on every entry; what they give for an entry that LOCK would
refuse is no rule of the spec and no reachable state asks for it (logs 7, 10, 11). -/

namespace Sys2Proof.Machine

/-- What a decoder gives (rule R150). -/
structure Decoded where
  engf : Flt
  engi : Int
  disc : Word
  ssm : BitVec 2
  sdi : BitVec 2
  deriving DecidableEq, Repr

/-- The fields LABEL, SDI and SSM of an ARINC word (rule R100). -/
def wordLabel (w : Word) : BitVec 8 := w.extractLsb' 0 8
def wordSdi (w : Word) : BitVec 2 := w.extractLsb' 8 2
def wordSsm (w : Word) : BitVec 2 := w.extractLsb' 29 2

/-- `eng_int`: rounded half away from zero, clamped to an `i32` (rules R13, R150). -/
def engInt (x : Flt) : Int := clampI32 (Flt.roundHalfAway x)

/-- The discrete bits of a received word, from bit 10 up; 0 where there are none (rules R101, R150-R152). -/
def discreteBits (c : LabelConfig) (w : Word) : Word := field w 10 c.ndisc.toNat

/-- `decode_bnr` (rule R150). -/
def decodeBnr (nan : Flt) (c : LabelConfig) (w : Word) : Decoded :=
  let n := c.nsig.toNat
  let val := sext (n + 1) (field w (28 - n) (n + 1)).toNat
  let engf := Flt.mul nan (Flt.ofInt val) c.res
  { engf := engf
    engi := engInt engf
    disc := discreteBits c w
    ssm := wordSsm w
    sdi := if n > 18 then 0 else wordSdi w }

/-- p_i, the least significant bit of BCD digit i of n (rule R101). -/
def bcdPos (n i : Nat) : Nat := 30 - 4 * n + 4 * i

/-- BCD digit i of n; the most significant character has 3 bits (rules R101, R151). -/
def bcdDigit (n : Nat) (w : Word) (i : Nat) : Nat :=
  (field w (bcdPos n i) (if i + 1 = n then 3 else 4)).toNat

/-- Σ digit_i · 10^i, least significant digit first (rule R151). -/
def decimal : List Nat → Nat
  | [] => 0
  | d :: ds => d + 10 * decimal ds

/-- `decode_bcd` (rule R151). -/
def decodeBcd (nan : Flt) (c : LabelConfig) (w : Word) : Except ResultCode Decoded :=
  let n := c.nsig.toNat
  let digits := (List.range n).map (bcdDigit n w)
  if n < 1 || n > 5 || 4 * n - 1 + c.ndisc.toNat > 19 then .error .invalidMessage
  else if digits.any (· > 9) then .error .invalidMessage
  else
    let engf := Flt.mul nan (Flt.ofInt (decimal digits)) c.res
    .ok
      { engf := engf
        engi := engInt engf
        disc := discreteBits c w
        ssm := wordSsm w
        sdi := wordSdi w }

/-- `decode_discrete` (rule R152). -/
def decodeDiscrete (c : LabelConfig) (w : Word) : Decoded :=
  { engf := 0, engi := 0, disc := discreteBits c w, ssm := wordSsm w, sdi := wordSdi w }

/-- `decode`, by the entry's type (rule R153). Type 3 cannot reach it after LOCK; it ends with Error, the code rule
R270 keeps for a breach of an invariant that LOCK establishes (log 10). -/
def decodeWord (nan : Flt) (c : LabelConfig) (w : Word) : Except ResultCode Decoded :=
  match c.msgType with
  | .bnr => .ok (decodeBnr nan c w)
  | .bcd => decodeBcd nan c w
  | .discrete => .ok (decodeDiscrete c w)
  | .reserved => .error .error

/-- A word an encoder produced, and whether its value was clipped. -/
structure Encoded where
  word : Word
  clipped : Bool
  deriving DecidableEq, Repr

/-- M(n), the BNR data mask (rule R105). -/
def bnrMask (n : Nat) : Word :=
  if n ≤ 18 then 0x1FFFFC00 else if n = 19 then 0x1FFFFE00 else 0x1FFFFF00

/-- The discrete operand masked to ndisc bits and put at bit 10 (rules R101, R154, R155). -/
def discretePart (c : LabelConfig) (disc : Word) : Word := (disc &&& mask c.ndisc.toNat) <<< 10

/-- The SDI and SSM operands in their places (rule R100). -/
def sdiPart (sdi : BitVec 2) : Word := sdi.setWidth 32 <<< 8
def ssmPart (ssm : BitVec 2) : Word := ssm.setWidth 32 <<< 29

/-- The raw integer of an engineering value: `clamp_i32(round_half_away(x ⊘ c.res))` (rules R154, R155). -/
def rawValue (nan : Flt) (c : LabelConfig) (x : Flt) : Int :=
  clampI32 (Flt.roundHalfAway (Flt.div nan x c.res))

/-- `encode_bnr` (rule R154). -/
def encodeBnr (nan : Flt) (c : LabelConfig) (x : Flt) (disc : Word) (ssm sdi : BitVec 2) :
    Except ResultCode Encoded :=
  if Flt.isNaN x then .error .invalidMsgData
  else
    let n := c.nsig.toNat
    let v := rawValue nan c x
    let vc := min (max v (-2 ^ n)) (2 ^ n - 1)
    let data := (toU32 vc <<< (28 - n)) &&& bnrMask n
    let sdiBits := if n ≤ 18 then sdiPart sdi else 0
    .ok
      { word := data ||| c.label.setWidth 32 ||| discretePart c disc ||| sdiBits ||| ssmPart ssm
        clipped := decide (v < -2 ^ n) || decide (v > 2 ^ n - 1) }

/-- The digits of `v`, each at its place (rules R101, R155). -/
def bcdData (n v : Nat) : Word :=
  (List.range n).foldl (fun data i => data ||| (BitVec.ofNat 32 (v / 10 ^ i % 10) <<< bcdPos n i)) 0

/-- `encode_bcd` (rule R155). -/
def encodeBcd (nan : Flt) (c : LabelConfig) (x : Flt) (disc : Word) (ssm sdi : BitVec 2) :
    Except ResultCode Encoded :=
  if Flt.isNaN x || Flt.lt x 0 then .error .invalidMsgData
  else
    let n := c.nsig.toNat
    let v := rawValue nan c x
    let vmax : Int := 8 * 10 ^ (n - 1) - 1
    let vc := if v > vmax then vmax else v
    let data := bcdData n vc.toNat &&& 0x1FFFFC00
    .ok
      { word := data ||| c.label.setWidth 32 ||| discretePart c disc ||| sdiPart sdi ||| ssmPart ssm
        clipped := decide (v > vmax) }

/-- `encode_discrete` (rule R156). -/
def encodeDiscrete (c : LabelConfig) (disc : Word) (ssm sdi : BitVec 2) : Encoded :=
  let d := c.ndisc.toNat
  { word := ((disc &&& mask d) <<< (29 - d)) ||| c.label.setWidth 32 ||| sdiPart sdi ||| ssmPart ssm
    clipped := false }

/-- `encode`, by the entry's type (rule R157). Type 3 cannot reach it after LOCK; it ends with Error (log 10). -/
def encodeWord (nan : Flt) (c : LabelConfig) (x : Flt) (disc : Word) (ssm sdi : BitVec 2) :
    Except ResultCode Encoded :=
  match c.msgType with
  | .bnr => encodeBnr nan c x disc ssm sdi
  | .bcd => encodeBcd nan c x disc ssm sdi
  | .discrete => .ok (encodeDiscrete c disc ssm sdi)
  | .reserved => .error .error

/-- `check_bnr_validity` (rule R158): inclusive bounds, a disabled bound does not constrain, a NaN fails. -/
def checkBnrValidity (x : Flt) (c : LabelConfig) : BitVec 2 :=
  if Flt.isNaN x then bnrFW
  else if c.minvEn && Flt.lt x c.minv then bnrFW
  else if c.maxvEn && Flt.lt c.maxv x then bnrFW
  else bnrNO

end Sys2Proof.Machine
end

