-- ==== Sys2Proof/Machine/Operands.lean ====
section
/-! DEFINITION. The common frame and the index operands (rules R107, R272-R274): NotLocked, then InvalidArgument, then
the command's own rule on the group, engine or table entry its operand names. -/

namespace Sys2Proof.Machine

/-- The frame of every command but NOP and LOCK: NotLocked while LOCKED = 0 (rules R272, R274). -/
def ifLocked (i : Instr) (s : State) (body : State) : State :=
  if s.locked then body else s.finish .notLocked i.opc

/-- Resolves an index into a list; InvalidArgument where it names nothing (rule R273). -/
def withIndex {α : Type} (i : Instr) (s : State) (l : List α) (k : Nat) (body : α → State) : State :=
  match l[k]? with
  | some x => body x
  | none => s.finish .invalidArgument i.opc

/-- Operand g: a group g < NGRP (rules R107, R273). -/
def withGroup (i : Instr) (g : Nat) (s : State) (body : Group → State) : State :=
  ifLocked i s (withIndex i s s.groups g body)

/-- Operand e of the LP commands: an engine e < NLP (rules R107, R273). -/
def withLp (i : Instr) (e : Nat) (s : State) (body : LowPass → State) : State :=
  ifLocked i s (withIndex i s s.lp e body)

/-- Operand e of the DF commands: an engine e < NDF (rules R107, R273). -/
def withDf (i : Instr) (e : Nat) (s : State) (body : Diff → State) : State :=
  ifLocked i s (withIndex i s s.df e body)

/-- Codec-table entry t, if t < NCT and it is enabled (rule R40). -/
def State.entry (s : State) (t : Nat) : Option LabelConfig :=
  match s.ct[t]? with
  | some c => if c.en then some c else none
  | none => none

/-- Operand t: an enabled codec-table entry (rules R107, R273). -/
def withEntry (i : Instr) (t : Nat) (s : State) (body : LabelConfig → State) : State :=
  ifLocked i s
    (match s.entry t with
    | some c => body c
    | none => s.finish .invalidArgument i.opc)

end Sys2Proof.Machine
end

