-- ==== Sys2Proof/Machine/CodecCmds.lean ====
section
/-! DEFINITION. The codec commands DEC, ENC and CHKV (rules R160-R162). -/

namespace Sys2Proof.Machine

/-- What a successful DEC writes (rule R160). -/
def State.putDecoded (s : State) (r : Decoded) : State :=
  { s with outa := r.engf, outi := toU32 r.engi, outd := r.disc, outf := outfSsm r.ssm r.sdi }

/-- `DEC t` (rule R160). -/
def execDec (t : Nat) (s : State) : Outcome State :=
  let i := Instr.dec t
  .next
    (withEntry i t s fun c =>
      match decodeWord (s.nan 0) c s.opw with
      | .error code => s.finish code i.opc
      | .ok r => ((s.putDecoded r).draw 1).finish .success i.opc)

/-- `ENC t, ssm, sdi` (rule R161). -/
def execEnc (t : Nat) (ssm sdi : BitVec 2) (s : State) : Outcome State :=
  let i := Instr.enc t ssm sdi
  .next
    (withEntry i t s fun c =>
      match encodeWord (s.nan 0) c s.opa s.opd ssm sdi with
      | .error code => s.finish code i.opc
      | .ok r =>
        ({ s with outw := r.word }.draw 1).finish (if r.clipped then .sentDataClipped else .success) i.opc)

/-- `CHKV t` (rule R162). -/
def execChkv (t : Nat) (s : State) : Outcome State :=
  let i := Instr.chkv t
  .next
    (withEntry i t s fun c =>
      { s with outf := outfSsm (checkBnrValidity s.opa c) 0 }.finish .success i.opc)

end Sys2Proof.Machine
end

