-- ==== Sys2Proof/Machine/Control.lean ====
section
/-! DEFINITION. The control commands NOP and LOCK (rules R130-R132). -/

namespace Sys2Proof.Machine

/-- Is the resolution finite and positive (rule R132)? -/
def resOk (c : LabelConfig) : Bool := Flt.isFinite c.res && Flt.lt 0 c.res

/-- `check_entry` (rule R132): 0, or the reason code of the first check that fails. -/
def checkEntry (c : LabelConfig) : Nat :=
  let nsig := c.nsig.toNat
  let ndisc := c.ndisc.toNat
  let interval := if c.maxTx < c.minTx then 6 else 0
  match c.msgType with
  | .reserved => 1
  | .bnr =>
    if nsig < 1 || nsig > 20 then 2
    else if ndisc > 19 then 3
    else if !resOk c then 5
    else interval
  | .bcd =>
    if nsig < 1 || nsig > 5 then 2
    else if ndisc > 19 then 3
    else if 4 * nsig - 1 + ndisc > 19 then 4
    else if !resOk c then 5
    else interval
  | .discrete =>
    if ndisc < 1 || ndisc > 19 then 3
    else interval

/-- The first failure of codec-table entry t, as ERRINFO (rule R131). -/
def tableFailure (s : State) (t : Fin Config.tableSize) : Option Word :=
  if s.ct[t].en && checkEntry s.ct[t] != 0 then some (errinfoWord (checkEntry s.ct[t]) 0 0 t) else none

/-- Has an entry before j the label of entry j (rule R131)? -/
def duplicateLabel (G : Group) (j : Fin Config.tableSize) : Bool :=
  (List.finRange Config.tableSize).any fun i => decide (i < j) && G.entries[i].label == G.entries[j].label

/-- The first failure of active entry j of group g: its own check, then a duplicate label (rule R131). -/
def entryFailure (g : Nat) (G : Group) (j : Fin Config.tableSize) : Option Word :=
  if j.val < G.num.toNat then
    if checkEntry G.entries[j] != 0 then some (errinfoWord (checkEntry G.entries[j]) 1 g j)
    else if duplicateLabel G j then some (errinfoWord 7 1 g j)
    else none
  else none

/-- The first failure of group g: its size, then its entries in order (rule R131). -/
def groupFailure (g : Nat) (G : Group) : Option Word :=
  if G.num.toNat > 64 then some (errinfoWord 8 2 g 0)
  else (List.finRange Config.tableSize).findSome? (entryFailure g G)

/-- The first failing check of LOCK as ERRINFO: the codec table, then the groups in order (rule R131). -/
def lockFailure (s : State) : Option Word :=
  ((List.finRange Config.tableSize).findSome? (tableFailure s)).or
    (s.groups.zipIdx.findSome? fun p => groupFailure p.2 p.1)

/-- `NOP` (rule R130). -/
def execNop (s : State) : Outcome State := .next (s.finish .success Instr.nop.opc)

/-- `LOCK` (rule R131): while locked it succeeds and changes nothing (D58). -/
def execLock (s : State) : Outcome State :=
  .next
    (if s.locked then s.finish .success Instr.lock.opc
    else
      match lockFailure s with
      | some e => { s with cfgErr := true, errinfo := e }.finish .invalidArgument Instr.lock.opc
      | none => { s with locked := true, cfgErr := false }.finish .success Instr.lock.opc)

end Sys2Proof.Machine
end

