-- ==== Sys2Proof/Machine/Filter.lean ====
section
/-! DEFINITION. The filter engines and the spool protocol (rules R230-R253). -/

namespace Sys2Proof.Machine

/-- LPRST's effect on the engine (rule R240). -/
def LowPass.clear (l : LowPass) : LowPass := { l with prev := 0, pre := false }

/-- LPPRE's effect on the engine (rule R241). -/
def LowPass.preload (l : LowPass) (x : Flt) : LowPass := { l with prev := x, pre := true }

/-- `lp_step` (rule R242): three roundings in the order written, with one free NaN each. -/
def LowPass.next (nan : Nat → Flt) (l : LowPass) (x : Flt) : Flt × LowPass :=
  let y := Flt.add (nan 2) (Flt.mul (nan 0) l.k1 l.prev) (Flt.mul (nan 1) l.k2 x)
  (y, { l with prev := y })

/-- DFRST's effect on the engine (rule R245). -/
def Diff.clear (d : Diff) : Diff := { d with pin := 0, pout := 0 }

/-- DFPRE's effect on the engine (rule R246). -/
def Diff.preload (d : Diff) (x : Flt) : Diff := { d with pin := x, pout := 0 }

/-- `df_step` (rule R247): outside the delta window the previous output is substituted; `k1` is not read. DESIGN CHOICE,
unsafe (log 14): the sample becomes the previous input as the rule's pseudocode has it, so the second sample after a NaN
can give a finite output, where the words of R247 (d) and R321 say every later step gives a NaN; likewise after an
infinite sample. -/
def Diff.next (nan : Nat → Flt) (d : Diff) (x : Flt) : Flt × Diff :=
  let delta := Flt.sub (nan 0) x d.pin
  let y :=
    if Flt.lt d.ud delta || Flt.lt delta d.ld then d.pout
    else Flt.clamp (Flt.mul (nan 1) delta d.fs) d.ll d.ul
  (y, { d with pin := x, pout := y })

/-- What one spool cycle gives: the engine and its spool state after, the output and its SSM. -/
structure SpoolOut (α : Type) where
  engine : α
  spool : Spool
  y : Flt
  ssm : BitVec 2

/-- `spool` (rule R250) over an engine that can restart (reset, then preload) and step. An invalid cycle does not read
the sample and leaves the engine alone. -/
def spoolCycle {α : Type} (restart : Flt → α) (next : Flt → Flt × α) (engine : α) (sp : Spool) (c : LabelConfig)
    (valid : Bool) (x : Flt) : SpoolOut α :=
  if !valid then ⟨engine, ⟨false, 0⟩, 0, bnrFW⟩
  else if sp.good then
    let p := next x
    ⟨p.2, sp, p.1, checkBnrValidity p.1 c⟩
  else if sp.count = 0 then ⟨restart x, ⟨false, 1⟩, 0, bnrFW⟩
  else
    let p := next x
    let count := sp.count + 1
    if Config.spoolThreshold < count then ⟨p.2, ⟨true, count⟩, p.1, checkBnrValidity p.1 c⟩
    else ⟨p.2, ⟨false, count⟩, p.1, bnrFW⟩

/-- `LPRST e` (rule R240). -/
def execLprst (e : Nat) (s : State) : Outcome State :=
  let i := Instr.lprst e
  .next (withLp i e s fun l => (s.setLp e l.clear).finish .success i.opc)

/-- `LPPRE e` (rule R241). -/
def execLppre (e : Nat) (s : State) : Outcome State :=
  let i := Instr.lppre e
  .next (withLp i e s fun l => (s.setLp e (l.preload s.opa)).finish .success i.opc)

/-- `LPSTEP e` (rule R242). -/
def execLpstep (e : Nat) (s : State) : Outcome State :=
  let i := Instr.lpstep e
  .next
    (withLp i e s fun l =>
      let p := l.next s.nan s.opa
      ({ s.setLp e p.2 with outa := p.1 }.draw 3).finish .success i.opc)

/-- `LPSPOOL e, t, v` (rule R252). -/
def execLpspool (e t : Nat) (valid : Bool) (s : State) : Outcome State :=
  let i := Instr.lpspool e t valid
  .next
    (withLp i e s fun l =>
      withEntry i t s fun c =>
        let r := spoolCycle l.clear.preload (l.next s.nan) l l.spool c valid s.opa
        ({ s.setLp e { r.engine with spool := r.spool } with outa := r.y, outf := outfSsm r.ssm 0 }.draw 3).finish
          .success i.opc)

/-- `DFRST e` (rule R245). -/
def execDfrst (e : Nat) (s : State) : Outcome State :=
  let i := Instr.dfrst e
  .next (withDf i e s fun d => (s.setDf e d.clear).finish .success i.opc)

/-- `DFPRE e` (rule R246). -/
def execDfpre (e : Nat) (s : State) : Outcome State :=
  let i := Instr.dfpre e
  .next (withDf i e s fun d => (s.setDf e (d.preload s.opa)).finish .success i.opc)

/-- `DFSTEP e` (rule R247). -/
def execDfstep (e : Nat) (s : State) : Outcome State :=
  let i := Instr.dfstep e
  .next
    (withDf i e s fun d =>
      let p := d.next s.nan s.opa
      ({ s.setDf e p.2 with outa := p.1 }.draw 2).finish .success i.opc)

/-- `DFSPOOL e, t, v` (rule R253). -/
def execDfspool (e t : Nat) (valid : Bool) (s : State) : Outcome State :=
  let i := Instr.dfspool e t valid
  .next
    (withDf i e s fun d =>
      withEntry i t s fun c =>
        let r := spoolCycle d.clear.preload (d.next s.nan) d d.spool c valid s.opa
        ({ s.setDf e { r.engine with spool := r.spool } with outa := r.y, outf := outfSsm r.ssm 0 }.draw 2).finish
          .success i.opc)

end Sys2Proof.Machine
end

