-- ==== Sys2Proof/Machine/Receive.lean ====
section
/-! DEFINITION. The receive pipeline: RXW, DRAIN, TICK, GETD and GETW (rules R190-R225). -/

namespace Sys2Proof.Machine

/-- `lookup(g, L)`: the least active entry with the label (rule R190). -/
def Group.lookup (G : Group) (label : BitVec 8) : Option (Fin Config.tableSize) :=
  (List.finRange Config.tableSize).find? fun j =>
    decide (j.val < G.num.toNat) && G.entries[j].label == label

/-- Slot j after a good receipt of word `w` at time `t` (rule R191); `nb` compares with the previous receipt. -/
def Slot.receive (x : Slot) (c : LabelConfig) (w t : Word) (r : Decoded) : Slot :=
  { raw := w
    sm := r.ssm
    sdi := r.sdi
    engf := r.engf
    engi := toU32 r.engi
    disc := r.disc
    lastGood := t
    nb := decide (c.minTx ≤ elapsed t x.lastGood) }

/-- A group after a good receipt on entry j: the slot, and `cnt` back to 0 (rule R191, D51). -/
def Group.receive (G : Group) (j : Fin Config.tableSize) (w t : Word) (r : Decoded) : Group :=
  { G with slots := G.slots.set j (G.slots[j].receive G.entries[j] w t r), cnt := 0 }

/-- `process_received(g, w)` on group g, which is `G` (rule R191): the code it returns and the state after. -/
def processReceived (g : Nat) (G : Group) (w : Word) (s : State) : ResultCode × State :=
  match G.lookup (wordLabel w) with
  | none => (.noMatchingLabel, s)
  | some j =>
    match decodeWord (s.nan 0) G.entries[j] w with
    | .error code => (code, s)
    | .ok r => (.success, (s.setGroup g (G.receive j w s.clock r)).draw 1)

/-- `RXW g` (rule R200). Bit 31 of OPW is not examined (D50). -/
def execRxw (g : Nat) (s : State) : Outcome State :=
  let i := Instr.rxw g
  .next
    (withGroup i g s fun G =>
      let p := processReceived g G s.opw s
      p.2.finish p.1 i.opc)

/-- The end of a DRAIN: its counts and its result (rule R205). -/
def State.drainDone (s : State) (d : DrainProgress) : State :=
  { s with outi := BitVec.ofNat 32 d.nread, outd := BitVec.ofNat 32 d.nok, drain := none }.finish .success
    (Instr.drain d.grp).opc

/-- The word taken from the port: discarded on a parity error, else processed (rules R104, R205). Answers whether it
was processed with Success. -/
def drainWord (g : Nat) (w : Word) (s : State) : Bool × State :=
  if w.getLsbD 31 then (false, s)
  else
    match s.groups[g]? with
    | none => (false, s)
    | some G =>
      let p := processReceived g G w s
      (p.1 == .success, p.2)

/-- One iteration of a DRAIN (rule R205): it ends where the port is not ready and after DRAIN_MAX words. -/
def drainIter (d : DrainProgress) (s : State) : State :=
  if s.rxReady d.grp then
    let p := drainWord d.grp (s.rxHead d.grp) (s.rxDrop d.grp)
    let d' : DrainProgress := ⟨d.grp, d.nread + 1, if p.1 then d.nok + 1 else d.nok⟩
    if d'.nread < Config.drainMax then { p.2 with drain := some d' } else p.2.drainDone d'
  else s.drainDone d

/-- `DRAIN g` (rule R205): its first iteration. While the loop has not ended, DRAIN stays in progress and each later
step takes one more iteration (rules R72, R330; log 5). -/
def execDrain (g : Nat) (s : State) : Outcome State :=
  .next (withGroup (.drain g) g s fun _ => drainIter ⟨g, 0, 0⟩ s)

/-- `cnt + 1`, saturating (rule R210, D20). -/
def tickCount (cnt : Word) : Word := if cnt = BitVec.allOnes 32 then cnt else cnt + 1

/-- `TICK g` (rule R210). -/
def execTick (g : Nat) (s : State) : Outcome State :=
  let i := Instr.tick g
  .next
    (withGroup i g s fun G =>
      let cnt := tickCount G.cnt
      let failed := decide (G.maxbf ≤ cnt)
      { s.setGroup g { G with cnt := cnt, failed := failed } with outi := cnt, outf := outfBool failed }.finish
        .success i.opc)

/-- Is a slot fresh at the sample `t` (rules R220, R225)? Computed at each read, never stored (D52). -/
def isFresh (c : LabelConfig) (x : Slot) (t : Word) : Bool := decide (elapsed t x.lastGood ≤ c.maxTx)

/-- `GETD g, L` (rule R220). -/
def execGetd (g : Nat) (label : BitVec 8) (s : State) : Outcome State :=
  let i := Instr.getd g label
  .next
    (withGroup i g s fun G =>
      match G.lookup label with
      | none => s.finish .noMatchingLabel i.opc
      | some j =>
        let x := G.slots[j]
        let fresh := isFresh G.entries[j] x s.clock
        { s with
          outw := x.raw
          outa := x.engf
          outi := x.engi
          outd := x.disc
          outt := x.lastGood
          outf := outfWord x.sm x.sdi fresh x.nb false }.finish .success i.opc)

/-- `GETW g, O` (rule R225): on an absent label it also clears OUTW and OUTF (D32). -/
def execGetw (g : Nat) (octal : BitVec 8) (s : State) : Outcome State :=
  let i := Instr.getw g octal
  .next
    (withGroup i g s fun G =>
      match G.lookup (rev8 octal) with
      | none => { s with outw := 0, outf := 0 }.finish .noMatchingLabel i.opc
      | some j =>
        let x := G.slots[j]
        let fresh := isFresh G.entries[j] x s.clock
        { s with outw := x.raw, outf := outfBool (fresh && x.nb) }.finish .success i.opc)

end Sys2Proof.Machine
end

