-- ==== Sys2Proof/Machine/Dispatch.lean ====
section
/-! DEFINITION. One arm per command (rule R108). -/

namespace Sys2Proof.Machine

def exec (i : Instr) (s : State) : Host.Outcome State Fault Refusal :=
  match i with
  | .nop => Sys2Proof.Machine.execNop s
  | .lock => Sys2Proof.Machine.execLock s
  | .dec t => Sys2Proof.Machine.execDec t s
  | .enc t ssm sdi => Sys2Proof.Machine.execEnc t ssm sdi s
  | .chkv t => Sys2Proof.Machine.execChkv t s
  | .rxw g => Sys2Proof.Machine.execRxw g s
  | .drain g => Sys2Proof.Machine.execDrain g s
  | .tick g => Sys2Proof.Machine.execTick g s
  | .getd g label => Sys2Proof.Machine.execGetd g label s
  | .getw g octal => Sys2Proof.Machine.execGetw g octal s
  | .lprst e => Sys2Proof.Machine.execLprst e s
  | .lppre e => Sys2Proof.Machine.execLppre e s
  | .lpstep e => Sys2Proof.Machine.execLpstep e s
  | .lpspool e t valid => Sys2Proof.Machine.execLpspool e t valid s
  | .dfrst e => Sys2Proof.Machine.execDfrst e s
  | .dfpre e => Sys2Proof.Machine.execDfpre e s
  | .dfstep e => Sys2Proof.Machine.execDfstep e s
  | .dfspool e t valid => Sys2Proof.Machine.execDfspool e t valid s

end Sys2Proof.Machine
end

