-- ==== Sys2Proof/Machine/Port.lean ====
section
/-! DEFINITION. The host port and the turns of the agents (rules R7, R70-R78, R83, R114, R300): what one move of the
agenda does. `run` is what a command word written to CMD does. -/

namespace Sys2Proof.Machine

/-- The address of CMD (rule R79). -/
def cmdAddr : BitVec 16 := 0x0010

/-- Is an access legal (rule R73): 32 bits wide and aligned to 4? -/
def accessOk (a : BitVec 16) (bytes : Nat) : Bool := bytes == 4 && a.toNat % 4 == 0

/-- The answer to a command write: done, or stalled while a DRAIN is in progress (rule R72). -/
def answerCommand (s : State) : State :=
  { s with resp := if s.drain.isSome then .stalled else .done }

/-- Runs a command and answers its write. -/
def commandWrite (run : Word → State → Outcome State) (c : Word) (s : State) : Outcome State :=
  match run c s with
  | .next t => .next (answerCommand t)
  | .fault f => .fault f
  | .refused r => .refused r

/-- One host transaction (rules R70-R78). An access that breaks rule R73 is answered with a bus error and has no
effect (rules R16, R76). -/
def access (run : Word → State → Outcome State) (t : Txn) (s : State) : Outcome State :=
  match t with
  | .read a bytes =>
    .next (if accessOk a bytes then { s with resp := .data (busRead s a) } else { s with resp := .busError })
  | .write a bytes v =>
    if !accessOk a bytes then .next { s with resp := .busError }
    else if a = cmdAddr then commandWrite run v s
    else .next { busWrite s a v with resp := .done }

/-- A move that is not a host transaction, on a state whose agenda no longer holds it. -/
def State.inputMove (s : State) : Event → State
  | .host _ => s
  | .now n => { s with env := { s.env with now := n } }
  | .deliver g ws => s.rxAppend g ws
  | .pause => s
  | .reset => s.applyReset

/-- The turn of a running DRAIN: one iteration (rules R205, R330). -/
def State.drainTurn (s : State) (d : DrainProgress) : State := answerCommand (drainIter d s)

/-- One turn. The agenda says who moves next. While a DRAIN runs, the host is stalled: its transaction stays where it
is, and the block takes one iteration (rule R72); it also does so on a `pause` and when nothing is to come. With no
DRAIN running and nothing to come, nothing moves. -/
def turn (run : Word → State → Outcome State) (s : State) : Outcome State :=
  match s.agenda with
  | [] =>
    match s.drain with
    | some d => .next (s.drainTurn d)
    | none => .next s
  | .host t :: rest =>
    match s.drain with
    | some d => .next (s.drainTurn d)
    | none => access run t { s with agenda := rest }
  | .pause :: rest =>
    match s.drain with
    | some d => .next ({ s with agenda := rest }.drainTurn d)
    | none => .next { s with agenda := rest }
  | .now n :: rest => .next ({ s with agenda := rest }.inputMove (.now n))
  | .deliver g ws :: rest => .next ({ s with agenda := rest }.inputMove (.deliver g ws))
  | .reset :: rest => .next ({ s with agenda := rest }.inputMove .reset)

end Sys2Proof.Machine
end

