-- ==== Sys2Proof/Machine/Step.lean ====
section
/-! DEFINITION. One step of the machine, and how a command word comes to be the next one. -/

namespace Sys2Proof.Machine

/-- What a command word does: the command it decodes to, or IllegalCommand (rules R271, R274). -/
def command (c : Word) (s : State) : Outcome State :=
  match decode c with
  | .ok i => exec i s
  | .error _ => .next (s.illegalCommand c)

/-- One step: the next turn of the agenda, or one iteration of a running DRAIN. -/
def step (s : State) : Host.Outcome State Fault Refusal := turn command s

/-- `s` with the host's next move the write of a command word to CMD, and no DRAIN in progress to stall it (log 13). -/
def State.withFetchWord (s : State) (nbits w : Nat) : State :=
  { s with
    agenda := .host (.write cmdAddr 4 (tableWord nbits w)) :: s.agenda
    drain := none }

end Sys2Proof.Machine
end

