-- ==== Sys2Proof/Safety.lean ====
section
/-! DEFINITION. What the spec promises of every state: the invariants (rules R8, R33-R36, R47, R133, R205, R283), and a
safe step. -/

namespace Sys2Proof.Safety

open Sys2Proof.Machine

/-- The legal values of a LabelConfig entry (rules R39, R132). -/
abbrev LegalEntry (c : LabelConfig) : Prop :=
  c.msgType ≠ .reserved ∧
  (c.msgType = .bnr → 1 ≤ c.nsig.toNat ∧ c.nsig.toNat ≤ 20 ∧ c.ndisc.toNat ≤ 19) ∧
  (c.msgType = .bcd →
    1 ≤ c.nsig.toNat ∧ c.nsig.toNat ≤ 5 ∧ c.ndisc.toNat ≤ 19 ∧ 4 * c.nsig.toNat - 1 + c.ndisc.toNat ≤ 19) ∧
  (c.msgType = .discrete → 1 ≤ c.ndisc.toNat ∧ c.ndisc.toNat ≤ 19) ∧
  (c.msgType = .bnr ∨ c.msgType = .bcd → Flt.isFinite c.res = true ∧ Flt.lt 0 c.res = true) ∧
  c.minTx.toNat ≤ c.maxTx.toNat

/-- The legal values of a group's configuration: at most 64 active entries, each legal, labels unique (rules R41, R133). -/
abbrev LegalGroup (G : Group) : Prop :=
  G.num.toNat ≤ 64 ∧
  (∀ j : Fin Config.tableSize, j.val < G.num.toNat → LegalEntry G.entries[j]) ∧
  (∀ i j : Fin Config.tableSize, i.val < j.val → j.val < G.num.toNat →
    G.entries[i].label ≠ G.entries[j].label)

/-- The whole configuration is legal: what LOCK validates (rules R131, R133). -/
abbrev Validated (s : State) : Prop :=
  (∀ t : Fin Config.tableSize, s.ct[t].en = true → LegalEntry s.ct[t]) ∧ ∀ G ∈ s.groups, LegalGroup G

/-- The implementation parameters are in their ranges (rule R8), and there is one port per group (rule R85). -/
abbrev SizesOk (s : State) : Prop :=
  1 ≤ s.groups.length ∧ s.groups.length ≤ 4 ∧ 1 ≤ s.lp.length ∧ s.lp.length ≤ 4 ∧ 1 ≤ s.df.length ∧
  s.df.length ≤ 4 ∧ s.env.ports.length = s.groups.length

/-- A spool count is 0 to 10 until the engine is good, and 11 while it is (rules R251, R283). -/
abbrev SpoolOk (sp : Spool) : Prop :=
  (sp.good = true → sp.count = 11) ∧ (sp.good = false → sp.count.toNat ≤ 10)

/-- Reserved bits read 0, and RESULT holds a code the block produces: 0-5, 7 or 8 (rules R33, R34, R36, R270). -/
abbrev WordsOk (s : State) : Prop :=
  s.result.toNat / 65536 = 0 ∧ s.result.toNat % 256 ≤ 8 ∧ s.result.toNat % 256 ≠ 6 ∧
  s.outf.toNat < 128 ∧ s.errinfo &&& 0xFFFC00C0 = 0

/-- A DRAIN in progress runs in RUN mode on a group that exists, with fewer than 32 words read and no more successes
than words (rule R205). -/
abbrev DrainOk (s : State) : Prop :=
  ∀ d ∈ s.drain, s.locked = true ∧ d.grp < s.groups.length ∧ 1 ≤ d.nread ∧ d.nread < 32 ∧ d.nok ≤ d.nread

/-- In CONFIG mode no command but NOP and LOCK has run since reset: outputs, slots, counters and engine state hold their
reset values (rules R272, R301). -/
abbrev ConfigModeQuiet (s : State) : Prop :=
  s.locked = false →
    s.outw = 0 ∧ s.outd = 0 ∧ s.outa = 0 ∧ s.outi = 0 ∧ s.outf = 0 ∧ s.outt = 0 ∧
    (∀ G ∈ s.groups, G.cnt = 0 ∧ G.failed = false ∧ G.slots = Vector.replicate _ Slot.reset) ∧
    (∀ l ∈ s.lp, l.prev = 0 ∧ l.pre = false ∧ l.spool = ⟨false, 0⟩) ∧
    (∀ d ∈ s.df, d.pin = 0 ∧ d.pout = 0 ∧ d.spool = ⟨false, 0⟩)

/-- The invariant of the machine. -/
structure Inv (s : State) : Prop where
  sizes : SizesOk s
  /-- RUN mode has a validated configuration and no configuration error (rules R35, R133). -/
  run : s.locked = true → Validated s ∧ s.cfgErr = false
  lpSpool : ∀ l ∈ s.lp, SpoolOk l.spool
  dfSpool : ∀ d ∈ s.df, SpoolOk d.spool
  words : WordsOk s
  drain : DrainOk s
  quiet : ConfigModeQuiet s

/-- A safe step answers a next state. -/
def SafeStep (s : State) : Prop := ∃ t, step s = .next t

end Sys2Proof.Safety
end

