-- ==== Sys2Proof/Certificates/Slice0/Obligations.lean ====
section
/-! DEFINITION. The statements about the model, and the words they are made of: the spec's tables and formulas written
a second time, apart from the model's definitions. -/

namespace Sys2Proof.Spec

open Sys2Proof.Machine Sys2Proof.Safety

/-! ### The command table (rules R108, R109) -/

/-- A row of the opcode table: mnemonic, match, mask. -/
structure Row where
  name : String
  value : Word
  mask : Word

/-- The rows of rule R109. -/
def rows : List Row :=
  [⟨"NOP", 0x00, 0xFFFFFFFF⟩, ⟨"LOCK", 0x01, 0xFFFFFFFF⟩,
   ⟨"DEC", 0x10, 0xFFF00FFF⟩, ⟨"ENC", 0x11, 0xFF000FFF⟩, ⟨"CHKV", 0x12, 0xFFF00FFF⟩,
   ⟨"RXW", 0x20, 0xFFFFF0FF⟩, ⟨"DRAIN", 0x21, 0xFFFFF0FF⟩, ⟨"TICK", 0x22, 0xFFFFF0FF⟩,
   ⟨"GETD", 0x23, 0xFFF000FF⟩, ⟨"GETW", 0x24, 0xFFF000FF⟩,
   ⟨"LPRST", 0x30, 0xFFFFF0FF⟩, ⟨"LPPRE", 0x31, 0xFFFFF0FF⟩, ⟨"LPSTEP", 0x32, 0xFFFFF0FF⟩,
   ⟨"LPSPOOL", 0x34, 0xFEF000FF⟩,
   ⟨"DFRST", 0x38, 0xFFFFF0FF⟩, ⟨"DFPRE", 0x39, 0xFFFFF0FF⟩, ⟨"DFSTEP", 0x3A, 0xFFFFF0FF⟩,
   ⟨"DFSPOOL", 0x3C, 0xFEF000FF⟩]

/-- A word is a row's: `(c & mask) == match`. -/
def Row.Selects (r : Row) (c : Word) : Prop := c &&& r.mask = r.value

/-- A word that no row selects (rule R110). -/
def Illegal (c : Word) : Prop := ∀ r ∈ rows, ¬ r.Selects c

/-- The mnemonic of a command. -/
def mnemonic : Instr → String
  | .nop => "NOP"
  | .lock => "LOCK"
  | .dec _ => "DEC"
  | .enc _ _ _ => "ENC"
  | .chkv _ => "CHKV"
  | .rxw _ => "RXW"
  | .drain _ => "DRAIN"
  | .tick _ => "TICK"
  | .getd _ _ => "GETD"
  | .getw _ _ => "GETW"
  | .lprst _ => "LPRST"
  | .lppre _ => "LPPRE"
  | .lpstep _ => "LPSTEP"
  | .lpspool _ _ _ => "LPSPOOL"
  | .dfrst _ => "DFRST"
  | .dfpre _ => "DFPRE"
  | .dfstep _ => "DFSTEP"
  | .dfspool _ _ _ => "DFSPOOL"

/-- The operand fields of a word as numbers (rules R106, R107): IDX, SEL, SSM, SDI, V. -/
def idxOf (c : Word) : Nat := c.toNat / 2 ^ 8 % 2 ^ 4
def selOf (c : Word) : Nat := c.toNat / 2 ^ 12 % 2 ^ 8
def ssmOf (c : Word) : Nat := c.toNat / 2 ^ 20 % 2 ^ 2
def sdiOf (c : Word) : Nat := c.toNat / 2 ^ 22 % 2 ^ 2
def vOf (c : Word) : Nat := c.toNat / 2 ^ 24 % 2

/-- The operands of a command are the fields of its word, zero extended (rules R107, R108). -/
def OperandsOf (c : Word) : Instr → Prop
  | .nop => True
  | .lock => True
  | .dec t => t = selOf c
  | .enc t ssm sdi => t = selOf c ∧ ssm.toNat = ssmOf c ∧ sdi.toNat = sdiOf c
  | .chkv t => t = selOf c
  | .rxw g => g = idxOf c
  | .drain g => g = idxOf c
  | .tick g => g = idxOf c
  | .getd g label => g = idxOf c ∧ label.toNat = selOf c
  | .getw g octal => g = idxOf c ∧ octal.toNat = selOf c
  | .lprst e => e = idxOf c
  | .lppre e => e = idxOf c
  | .lpstep e => e = idxOf c
  | .lpspool e t valid => e = idxOf c ∧ t = selOf c ∧ valid = (vOf c == 1)
  | .dfrst e => e = idxOf c
  | .dfpre e => e = idxOf c
  | .dfstep e => e = idxOf c
  | .dfspool e t valid => e = idxOf c ∧ t = selOf c ∧ valid = (vOf c == 1)

/-! ### The address map (rules R79-R82) -/

/-- LO at the lower address (rule R75). -/
def halfOff : Half → Nat
  | .lo => 0
  | .hi => 4

/-- Offsets in a LabelConfig entry (rule R81). -/
def cfgOff : CfgReg → Nat
  | .cfg0 => 0x00
  | .minTx => 0x04
  | .maxTx => 0x08
  | .res h => 0x10 + halfOff h
  | .minv h => 0x18 + halfOff h
  | .maxv h => 0x20 + halfOff h

/-- Offsets of a slot's registers in a group entry (rule R82). -/
def slotOff : SlotReg → Nat
  | .raw => 0x40
  | .flags => 0x44
  | .engf h => 0x48 + halfOff h
  | .engi => 0x50
  | .disc => 0x54
  | .lastGood => 0x58

/-- Offsets in a low-pass engine (rule R80). -/
def lpOff : LpReg → Nat
  | .k1 h => 0x00 + halfOff h
  | .k2 h => 0x08 + halfOff h
  | .prev h => 0x10 + halfOff h
  | .stat => 0x18
  | .spcnt => 0x1C

/-- Offsets in a differentiator engine (rule R80). -/
def dfOff : DfReg → Nat
  | .k1 h => 0x00 + halfOff h
  | .fs h => 0x08 + halfOff h
  | .ul h => 0x10 + halfOff h
  | .ll h => 0x18 + halfOff h
  | .ud h => 0x20 + halfOff h
  | .ld h => 0x28 + halfOff h
  | .pin h => 0x30 + halfOff h
  | .pout h => 0x38 + halfOff h
  | .stat => 0x40
  | .spcnt => 0x44

/-- The address of a register (rules R79-R82). -/
def addressOf : Reg → Nat
  | .id => 0x0000
  | .version => 0x0004
  | .params => 0x0008
  | .status => 0x000C
  | .cmd => 0x0010
  | .result => 0x0014
  | .errinfo => 0x0018
  | .now => 0x001C
  | .opw => 0x0020
  | .opd => 0x0024
  | .opa h => 0x0028 + halfOff h
  | .outw => 0x0030
  | .outd => 0x0034
  | .outa h => 0x0038 + halfOff h
  | .outi => 0x0040
  | .outf => 0x0044
  | .outt => 0x0048
  | .gnum g => 0x0100 + 0x10 * g
  | .gmaxbf g => 0x0104 + 0x10 * g
  | .gcnt g => 0x0108 + 0x10 * g
  | .gstat g => 0x010C + 0x10 * g
  | .lp e r => 0x0200 + 0x40 * e + lpOff r
  | .df e r => 0x0400 + 0x80 * e + dfOff r
  | .ct t r => 0x0800 + 0x40 * t.val + cfgOff r
  | .entry g j r => 0x2000 + 0x2000 * g + 0x80 * j.val + cfgOff r
  | .slot g j r => 0x2000 + 0x2000 * g + 0x80 * j.val + slotOff r

/-- The register exists in an implementation with these numbers of groups and engines (rule R77). -/
def RegExists (ngrp nlp ndf : Nat) : Reg → Prop
  | .gnum g => g < ngrp
  | .gmaxbf g => g < ngrp
  | .gcnt g => g < ngrp
  | .gstat g => g < ngrp
  | .lp e _ => e < nlp
  | .df e _ => e < ndf
  | .entry g _ _ => g < ngrp
  | .slot g _ _ => g < ngrp
  | _ => True

/-- The register exists in the machine of `s`. -/
def Mapped (s : State) (r : Reg) : Prop := RegExists s.groups.length s.lp.length s.df.length r

/-- Configuration registers: RW while unlocked (rules R39-R42, R80-R82). -/
def IsConfig : Reg → Prop
  | .gnum _ => True
  | .gmaxbf _ => True
  | .lp _ (.k1 _) => True
  | .lp _ (.k2 _) => True
  | .df _ (.k1 _) => True
  | .df _ (.fs _) => True
  | .df _ (.ul _) => True
  | .df _ (.ll _) => True
  | .df _ (.ud _) => True
  | .df _ (.ld _) => True
  | .ct _ _ => True
  | .entry _ _ _ => True
  | _ => False

/-- Operand registers: always RW (rule R32). -/
def IsOperand : Reg → Prop
  | .opw => True
  | .opd => True
  | .opa _ => True
  | _ => False

/-- The bits of a register that are not reserved (rules R33-R36, R39, R43, R80-R82). -/
def fieldBits : Reg → Word
  | .status => 0x00000007
  | .cmd => 0
  | .result => 0x0000FFFF
  | .errinfo => 0x0003FF3F
  | .outf => 0x0000007F
  | .gnum _ => 0x0000007F
  | .gstat _ => 0x00000001
  | .lp _ .stat => 0x00000003
  | .df _ .stat => 0x00000002
  | .ct _ .cfg0 => 0x803FFFFF
  | .entry _ _ .cfg0 => 0x003FFFFF
  | .slot _ _ .flags => 0x0000001F
  | _ => 0xFFFFFFFF

/-- A boolean as 0 or 1. -/
def num (b : Bool) : Nat := if b then 1 else 0

/-- The half of a binary64 encoding that a register holds (rule R75). -/
def halfNum (x : Flt) : Half → Nat
  | .lo => x.toNat % 2 ^ 32
  | .hi => x.toNat / 2 ^ 32

/-- The type code of CFG0[9:8] (rule R39). -/
def typeCode : MsgType → Nat
  | .bnr => 0
  | .bcd => 1
  | .discrete => 2
  | .reserved => 3

/-- The registers of a LabelConfig entry (rules R39, R81); CFG0[31] is `en` in the codec table only (rule R82). -/
def cfgHolds (inTable : Bool) (c : LabelConfig) : CfgReg → Nat
  | .cfg0 =>
    c.label.toNat + typeCode c.msgType * 2 ^ 8 + c.nsig.toNat * 2 ^ 10 + c.ndisc.toNat * 2 ^ 15 +
      num c.minvEn * 2 ^ 20 + num c.maxvEn * 2 ^ 21 + num (inTable && c.en) * 2 ^ 31
  | .minTx => c.minTx.toNat
  | .maxTx => c.maxTx.toNat
  | .res h => halfNum c.res h
  | .minv h => halfNum c.minv h
  | .maxv h => halfNum c.maxv h

/-- The registers of a slot (rules R43, R82). -/
def slotHolds (x : Slot) : SlotReg → Nat
  | .raw => x.raw.toNat
  | .flags => x.sm.toNat + x.sdi.toNat * 2 ^ 2 + num x.nb * 2 ^ 4
  | .engf h => halfNum x.engf h
  | .engi => x.engi.toNat
  | .disc => x.disc.toNat
  | .lastGood => x.lastGood.toNat

/-- The registers of a low-pass engine (rules R42, R45, R47, R80). -/
def lpHolds (l : LowPass) : LpReg → Nat
  | .k1 h => halfNum l.k1 h
  | .k2 h => halfNum l.k2 h
  | .prev h => halfNum l.prev h
  | .stat => num l.pre + num l.spool.good * 2
  | .spcnt => l.spool.count.toNat

/-- The registers of a differentiator engine (rules R42, R46, R47, R80). -/
def dfHolds (d : Diff) : DfReg → Nat
  | .k1 h => halfNum d.k1 h
  | .fs h => halfNum d.fs h
  | .ul h => halfNum d.ul h
  | .ll h => halfNum d.ll h
  | .ud h => halfNum d.ud h
  | .ld h => halfNum d.ld h
  | .pin h => halfNum d.pin h
  | .pout h => halfNum d.pout h
  | .stat => num d.spool.good * 2
  | .spcnt => d.spool.count.toNat

/-- The register holds the number `k`: which state element it shows, and at which bits (rules R32-R47, R79-R82, R84). A
register of a group or engine that does not exist holds nothing. -/
def Holds (s : State) (k : Nat) : Reg → Prop
  | .id => k = 0x41343239
  | .version => k = 0x00010000
  | .params => k = s.groups.length + 16 * s.lp.length + 256 * s.df.length + 4096 * 64 + 524288 * 64
  | .status => k = num s.locked + num s.cfgErr * 2 + num s.cmdErr * 4
  | .cmd => k = 0
  | .result => k = s.result.toNat
  | .errinfo => k = s.errinfo.toNat
  | .now => k = s.env.now.toNat
  | .opw => k = s.opw.toNat
  | .opd => k = s.opd.toNat
  | .opa h => k = halfNum s.opa h
  | .outw => k = s.outw.toNat
  | .outd => k = s.outd.toNat
  | .outa h => k = halfNum s.outa h
  | .outi => k = s.outi.toNat
  | .outf => k = s.outf.toNat
  | .outt => k = s.outt.toNat
  | .gnum g => ∃ G, s.groups[g]? = some G ∧ k = G.num.toNat
  | .gmaxbf g => ∃ G, s.groups[g]? = some G ∧ k = G.maxbf.toNat
  | .gcnt g => ∃ G, s.groups[g]? = some G ∧ k = G.cnt.toNat
  | .gstat g => ∃ G, s.groups[g]? = some G ∧ k = num G.failed
  | .lp e r => ∃ l, s.lp[e]? = some l ∧ k = lpHolds l r
  | .df e r => ∃ d, s.df[e]? = some d ∧ k = dfHolds d r
  | .ct t r => k = cfgHolds true s.ct[t] r
  | .entry g j r => ∃ G, s.groups[g]? = some G ∧ k = cfgHolds false G.entries[j] r
  | .slot g j r => ∃ G, s.groups[g]? = some G ∧ k = slotHolds G.slots[j] r

/-- A host access of rule R73. -/
def Legal (a : BitVec 16) (bytes : Nat) : Prop := bytes = 4 ∧ 4 ∣ a.toNat

/-! ### Effects of a command -/

/-- The low and high register of a binary64 value (rule R75). -/
def pair (r : Half → Reg) (x : Flt) : List (Reg × Word) :=
  [(r .lo, BitVec.ofNat 32 (x.toNat % 2 ^ 32)), (r .hi, BitVec.ofNat 32 (x.toNat / 2 ^ 32))]

/-- RESULT with a code and an opcode (rule R270). -/
def res (code opc : Nat) : Reg × Word := (.result, BitVec.ofNat 32 (code + 256 * opc))

/-- From `s` to `t`: the registers of `ws` read the given words in `t`, and every other register reads as in `s`. -/
def Writes (s t : State) (ws : List (Reg × Word)) : Prop :=
  (∀ p ∈ ws, readReg t p.1 = p.2) ∧ ∀ r, r ∉ ws.map Prod.fst → readReg t r = readReg s r

/-- What no command but DRAIN touches: the environment, the moves to come, the port's answer, a DRAIN in progress,
the sizes. -/
def SameOutside (s t : State) : Prop :=
  t.env = s.env ∧ t.agenda = s.agenda ∧ t.resp = s.resp ∧ t.drain = s.drain ∧
  t.groups.length = s.groups.length ∧ t.lp.length = s.lp.length ∧ t.df.length = s.df.length

/-- The command completes: `exec` answers a next state in which exactly the registers of `ws` may differ, and read the
given words. Every element of the block's state has a register (rule R50), so this is the frame too. -/
def Effect (i : Instr) (s : State) (ws : List (Reg × Word)) : Prop :=
  ∃ t, exec i s = .next t ∧ Writes s t ws ∧ SameOutside s t

/-- CT[t] is enabled and is `c` (rule R273). -/
def EntryIs (s : State) (t : Nat) (c : LabelConfig) : Prop :=
  ∃ h : t < Config.tableSize, s.ct[t] = c ∧ c.en = true

/-- An index operand of the command is out of range (the table of rule R273). -/
def BadIndex (s : State) : Instr → Prop
  | .nop => False
  | .lock => False
  | .dec t => ∀ c, ¬ EntryIs s t c
  | .enc t _ _ => ∀ c, ¬ EntryIs s t c
  | .chkv t => ∀ c, ¬ EntryIs s t c
  | .rxw g => s.groups.length ≤ g
  | .drain g => s.groups.length ≤ g
  | .tick g => s.groups.length ≤ g
  | .getd g _ => s.groups.length ≤ g
  | .getw g _ => s.groups.length ≤ g
  | .lprst e => s.lp.length ≤ e
  | .lppre e => s.lp.length ≤ e
  | .lpstep e => s.lp.length ≤ e
  | .lpspool e t _ => s.lp.length ≤ e ∨ ∀ c, ¬ EntryIs s t c
  | .dfrst e => s.df.length ≤ e
  | .dfpre e => s.df.length ≤ e
  | .dfstep e => s.df.length ≤ e
  | .dfspool e t _ => s.df.length ≤ e ∨ ∀ c, ¬ EntryIs s t c

/-- The opcode of a command as a number (rule R108). -/
def opcode (i : Instr) : Nat := (encode i).toNat % 256

/-! ### LOCK -/

/-- `check_entry` returns the reason `r` ≠ 0 (rule R132): the check of reason `r` fails, and those before it pass. -/
def FailsWith (c : LabelConfig) (r : Nat) : Prop :=
  let nsigBad := (c.msgType = .bnr ∧ (c.nsig.toNat < 1 ∨ c.nsig.toNat > 20)) ∨
    (c.msgType = .bcd ∧ (c.nsig.toNat < 1 ∨ c.nsig.toNat > 5))
  let ndiscBad := c.ndisc.toNat > 19 ∨ (c.msgType = .discrete ∧ c.ndisc.toNat < 1)
  let widthBad := c.msgType = .bcd ∧ 4 * c.nsig.toNat - 1 + c.ndisc.toNat > 19
  let resBad := c.msgType ≠ .discrete ∧ ¬ (Flt.isFinite c.res = true ∧ Flt.lt 0 c.res = true)
  (r = 1 ∧ c.msgType = .reserved) ∨
  (c.msgType ≠ .reserved ∧
    ((r = 2 ∧ nsigBad) ∨
     (r = 3 ∧ ¬ nsigBad ∧ ndiscBad) ∨
     (r = 4 ∧ ¬ nsigBad ∧ ¬ ndiscBad ∧ widthBad) ∨
     (r = 5 ∧ ¬ nsigBad ∧ ¬ ndiscBad ∧ ¬ widthBad ∧ resBad) ∨
     (r = 6 ∧ ¬ nsigBad ∧ ¬ ndiscBad ∧ ¬ widthBad ∧ ¬ resBad ∧ c.maxTx.toNat < c.minTx.toNat)))

/-- Active entry j of group G is the first to fail, with reason `r` (rule R131): its own check, or a label that an
earlier entry has. -/
def EntryFails (G : Group) (j : Fin Config.tableSize) (r : Nat) : Prop :=
  j.val < G.num.toNat ∧
  (FailsWith G.entries[j] r ∨
    (r = 7 ∧ LegalEntry G.entries[j] ∧ ∃ i : Fin Config.tableSize, i < j ∧ G.entries[i].label = G.entries[j].label))

/-- The first failure of LOCK: reason, table, group, index (rule R131): the codec table in order, then each group in
order, its size before its entries. -/
def FirstFailure (s : State) (r table g idx : Nat) : Prop :=
  (table = 0 ∧ g = 0 ∧ ∃ t : Fin Config.tableSize, idx = t.val ∧ s.ct[t].en = true ∧ FailsWith s.ct[t] r ∧
    ∀ u : Fin Config.tableSize, u < t → s.ct[u].en = true → LegalEntry s.ct[u]) ∨
  ((∀ t : Fin Config.tableSize, s.ct[t].en = true → LegalEntry s.ct[t]) ∧
    ∃ G, s.groups[g]? = some G ∧ (∀ g' G', g' < g → s.groups[g']? = some G' → LegalGroup G') ∧
      ((table = 2 ∧ r = 8 ∧ idx = 0 ∧ G.num.toNat > 64) ∨
       (table = 1 ∧ G.num.toNat ≤ 64 ∧ ∃ j : Fin Config.tableSize, idx = j.val ∧ EntryFails G j r ∧
         ∀ j' r', j' < j → ¬ EntryFails G j' r')))

/-! ### The codec -/

/-- Bits hi..lo of a word as a number (rule R10). -/
def bits (w : Word) (hi lo : Nat) : Nat := w.toNat / 2 ^ lo % 2 ^ (hi + 1 - lo)

/-- The signed value of the BNR field w[28 : 28−n] (rules R101, R150). -/
def bnrValue (n : Nat) (w : Word) : Int :=
  let raw := bits w 28 (28 - n)
  if raw < 2 ^ n then raw else (raw : Int) - 2 ^ (n + 1)

/-- BCD digit i of n (rules R101, R151). -/
def digit (n : Nat) (w : Word) (i : Nat) : Nat :=
  if i + 1 = n then bits w 28 26 else bits w (33 - 4 * n + 4 * i) (30 - 4 * n + 4 * i)

/-- Σ digit_i · 10^i (rule R151). -/
def digitSum (n : Nat) (w : Word) : Nat := ((List.range n).map fun i => digit n w i * 10 ^ i).sum

/-- The discrete bits of a received word, w[9+d : 10] (rules R101, R150-R152). -/
def discOf (c : LabelConfig) (w : Word) : Nat := w.toNat / 2 ^ 10 % 2 ^ c.ndisc.toNat

/-- `eng_int` as a 32-bit word (rules R11, R13, R150). -/
def engIntWord (x : Flt) : Word := BitVec.ofInt 32 (clampI32 (Flt.roundHalfAway x))

/-- OUTF with SSM and SDI only (rule R33). -/
def flagsOf (ssm sdi : Nat) : Word := BitVec.ofNat 32 (ssm + 4 * sdi)

/-- What DEC writes for an engineering value and a word (rule R160). -/
def decWrites (c : LabelConfig) (w : Word) (engf : Flt) (engi : Word) (sdi : Nat) : List (Reg × Word) :=
  pair .outa engf ++
    [(.outi, engi), (.outd, BitVec.ofNat 32 (discOf c w)), (.outf, flagsOf (bits w 30 29) sdi), res 0 0x10]

/-- The fields every encoder ORs in: label, SDI and SSM (rules R100, R154-R156). -/
def encCommon (c : LabelConfig) (ssm sdi : BitVec 2) : Word :=
  BitVec.ofNat 32 (c.label.toNat + sdi.toNat * 2 ^ 8 + ssm.toNat * 2 ^ 29)

/-- The discrete operand masked to ndisc bits, at bit 10 (rule R101). -/
def discAt10 (c : LabelConfig) (disc : Word) : Word :=
  BitVec.ofNat 32 (disc.toNat % 2 ^ c.ndisc.toNat * 2 ^ 10)

/-- The BNR word of a field value v ∈ [−2^n, 2^n − 1] (rule R154): v in two's complement in w[28 : 28−n]. -/
def bnrWord (c : LabelConfig) (v : Int) (disc : Word) (ssm sdi : BitVec 2) : Word :=
  let n := c.nsig.toNat
  BitVec.ofNat 32 ((v % 2 ^ (n + 1)).toNat * 2 ^ (28 - n)) ||| discAt10 c disc |||
    encCommon c ssm (if n ≤ 18 then sdi else 0)

/-- The BCD digits of v, each at its place (rules R101, R155). -/
def bcdField (n v : Nat) : Nat :=
  ((List.range n).map fun i => v / 10 ^ i % 10 * 2 ^ (30 - 4 * n + 4 * i)).sum

/-- The BCD word of a value v ≤ 8·10^(n−1) − 1 (rule R155). -/
def bcdWord (c : LabelConfig) (v : Nat) (disc : Word) (ssm sdi : BitVec 2) : Word :=
  BitVec.ofNat 32 (bcdField c.nsig.toNat v) ||| discAt10 c disc ||| encCommon c ssm sdi

/-- The SSM of rule R158. -/
def ValiditySsm (x : Flt) (c : LabelConfig) (ssm : Nat) : Prop :=
  let fails := Flt.isNaN x = true ∨ (c.minvEn = true ∧ Flt.lt x c.minv = true) ∨
    (c.maxvEn = true ∧ Flt.lt c.maxv x = true)
  (fails ∧ ssm = 0) ∨ (¬ fails ∧ ssm = 3)

/-! ### Real arithmetic -/

/-- The real value of a finite binary64 encoding (IEEE 754; rule R12). -/
def value (x : Flt) : ℚ :=
  let f : Nat := x.toNat % 2 ^ 52
  let e : Nat := x.toNat / 2 ^ 52 % 2 ^ 11
  let m : ℚ := if e = 0 then f * 2 ^ (-1074 : Int) else (2 ^ 52 + f) * 2 ^ ((e : Int) - 1075)
  if x.toNat < 2 ^ 63 then m else -m

/-- The encoding of a finite value. -/
def FiniteValue (x : Flt) : Prop := x.toNat / 2 ^ 52 % 2 ^ 11 ≠ 2047

/-- `r` is `q` rounded to nearest, ties to even (rule R12): no finite value is nearer; of two equally near ones the even
encoding; from half a unit above the largest finite value on, the infinity; the sign of a result that underflows is
that of `q`. -/
def Rounded (q : ℚ) (r : Flt) : Prop :=
  (|q| < 2 ^ 1024 - 2 ^ 970 →
    FiniteValue r ∧
    (∀ z, FiniteValue z → |value r - q| ≤ |value z - q|) ∧
    (∀ z, FiniteValue z → |value z - q| = |value r - q| → value z ≠ value r → r.toNat % 2 = 0)) ∧
  (2 ^ 1024 - 2 ^ 970 ≤ q → r = 0x7FF0000000000000) ∧
  (q ≤ -(2 ^ 1024 - 2 ^ 970) → r = 0xFFF0000000000000) ∧
  (q < 0 → 2 ^ 63 ≤ r.toNat) ∧ (0 < q → r.toNat < 2 ^ 63)

/-- The sign bit is set. -/
def Negative (x : Flt) : Prop := 2 ^ 63 ≤ x.toNat

/-- `r` is an infinity, the negative one exactly if `negative`. -/
def IsInfinity (r : Flt) (negative : Prop) : Prop := Flt.isInf r = true ∧ (Negative r ↔ negative)

/-! ### The receive pipeline -/

/-- Entry j is what a lookup of the label finds: the least active entry that has it (rule R190). -/
def Finds (G : Group) (label : BitVec 8) (j : Fin Config.tableSize) : Prop :=
  j.val < G.num.toNat ∧ G.entries[j].label = label ∧ ∀ i : Fin Config.tableSize, i < j → G.entries[i].label ≠ label

/-- No active entry of the group has the label (rule R190). -/
def Absent (G : Group) (label : BitVec 8) : Prop :=
  ∀ j : Fin Config.tableSize, j.val < G.num.toNat → G.entries[j].label ≠ label

/-- `elapsed(now, t)` as a number (rule R15). -/
def elapsedMs (now t : Word) : Nat := (now.toNat + (2 ^ 32 - t.toNat)) % 2 ^ 32

/-- A proposition as 0 or 1. -/
def IsBit (p : Prop) (k : Nat) : Prop := (p ∧ k = 1) ∨ (¬ p ∧ k = 0)

/-- What a good receipt writes in slot (g, j) and in G[g].cnt (rule R191). -/
def receiptWrites (g : Nat) (j : Fin Config.tableSize) (w t : Word) (d : Decoded) (nb : Nat) : List (Reg × Word) :=
  pair (fun h => .slot g j (.engf h)) d.engf ++
    [(.slot g j .raw, w), (.slot g j .flags, BitVec.ofNat 32 (d.ssm.toNat + 4 * d.sdi.toNat + 16 * nb)),
     (.slot g j .engi, BitVec.ofInt 32 d.engi), (.slot g j .disc, d.disc), (.slot g j .lastGood, t), (.gcnt g, 0)]

/-- Group g's port has a word to read (rule R85). -/
def PortReady (s : State) (g : Nat) : Prop := ∃ p, s.env.ports[g]? = some p ∧ p.present = true ∧ p.queue ≠ []

/-- What DRAIN makes of a word it took from the port of group g, which is `G` (rules R104, R191, R205): the registers it
writes, and 1 if it counts as a success. A word with bit 31 set, one with an absent label and one with a bad digit write
nothing and are no success. -/
def WordEffect (s : State) (g : Nat) (G : Group) (w : Word) (ws : List (Reg × Word)) (ok : Nat) : Prop :=
  (ws = [] ∧ ok = 0 ∧
    (w.getLsbD 31 = true ∨ Absent G (w.setWidth 8) ∨
      ∃ j, Finds G (w.setWidth 8) j ∧ ∀ nan, decodeWord nan G.entries[j] w = .error .invalidMessage)) ∨
  (w.getLsbD 31 = false ∧ ok = 1 ∧
    ∃ j d nb, Finds G (w.setWidth 8) j ∧ (∀ nan, decodeWord nan G.entries[j] w = .ok d) ∧
      IsBit (G.entries[j].minTx.toNat ≤ elapsedMs s.env.now G.slots[j].lastGood) nb ∧
      ws = receiptWrites g j w s.env.now d nb)

/-- What DRAIN writes at its end: the words read, the words that succeeded, Success (rule R205). -/
def drainEnd (nread nok : Nat) : List (Reg × Word) :=
  [(.outi, BitVec.ofNat 32 nread), (.outd, BitVec.ofNat 32 nok), res 0 0x21]

/-- The block moves while a DRAIN is in progress, and `rest` is to come after: nothing is to come, a host transaction
waits, or host and environment pause (rule R72). -/
def BlockMoves (s : State) (rest : List Event) : Prop :=
  (s.agenda = [] ∧ rest = []) ∨ (∃ x r, s.agenda = .host x :: r ∧ rest = s.agenda) ∨ s.agenda = .pause :: rest

/-! ### Engines -/

/-- The state of a low-pass engine as its registers (rule R80). -/
def lpWrites (e : Nat) (prev : Flt) (pre good : Bool) (count : Word) : List (Reg × Word) :=
  pair (fun h => .lp e (.prev h)) prev ++
    [(.lp e .stat, BitVec.ofNat 32 (num pre + 2 * num good)), (.lp e .spcnt, count)]

/-- The state of a differentiator engine as its registers (rule R80). -/
def dfWrites (e : Nat) (pin pout : Flt) (good : Bool) (count : Word) : List (Reg × Word) :=
  pair (fun h => .df e (.pin h)) pin ++ pair (fun h => .df e (.pout h)) pout ++
    [(.df e .stat, BitVec.ofNat 32 (2 * num good)), (.df e .spcnt, count)]

/-- `k1·prev + k2·x`, each operation rounded, in the order of rule R242, for the NaNs `n` a NaN result may be. -/
def lpOutput (n : Nat → Flt) (l : LowPass) (x : Flt) : Flt :=
  Flt.add (n 2) (Flt.mul (n 0) l.k1 l.prev) (Flt.mul (n 1) l.k2 x)

/-- `y` is the output of `df_step` (rule R247), for the NaNs `n` a NaN result may be. -/
def DfOutput (n : Nat → Flt) (d : Diff) (x y : Flt) : Prop :=
  let delta := Flt.sub (n 0) x d.pin
  let raw := Flt.mul (n 1) delta d.fs
  let outside := Flt.lt d.ud delta = true ∨ Flt.lt delta d.ld = true
  (outside ∧ y = d.pout) ∨
  (¬ outside ∧
    ((Flt.lt raw d.ll = true ∧ y = d.ll) ∨
     (Flt.lt raw d.ll = false ∧ Flt.lt d.ul raw = true ∧ y = d.ul) ∨
     (Flt.lt raw d.ll = false ∧ Flt.lt d.ul raw = false ∧ y = raw)))

/-- The configuration of the machine (rules R39-R42). -/
structure Configuration where
  ct : Vector LabelConfig Config.tableSize
  groups : List (BitVec 7 × Word × Vector LabelConfig Config.tableSize)
  lp : List (Flt × Flt)
  df : List (Flt × Flt × Flt × Flt × Flt × Flt)

/-- The configuration part of a state. -/
def configOf (s : State) : Configuration where
  ct := s.ct
  groups := s.groups.map fun G => (G.num, G.maxbf, G.entries)
  lp := s.lp.map fun l => (l.k1, l.k2)
  df := s.df.map fun d => (d.k1, d.fs, d.ul, d.ll, d.ud, d.ld)

/-- The state after `k` runs of a command from `s`, the n-th with OPA at `x n`; none if one does not answer a next
state. -/
def repeatWith (i : Instr) (x : Nat → Flt) : Nat → State → Option State
  | 0, s => some s
  | k + 1, s =>
    match repeatWith i x k s with
    | none => none
    | some u =>
      match exec i { u with opa := x (k + 1) } with
      | .next t => some t
      | _ => none

/-- The state after `k` runs of a command from `s`; none if one does not answer a next state. -/
def repeatCmd (i : Instr) : Nat → State → Option State
  | 0, s => some s
  | k + 1, s =>
    match repeatCmd i k s with
    | none => none
    | some u =>
      match exec i u with
      | .next t => some t
      | _ => none

/-- A word that DRAIN counts as a success: no parity error, an active entry has its label, and it decodes (rule R205). -/
def drainGood (G : Group) (w : Word) : Bool :=
  decide (w.toNat < 2 ^ 31) &&
    match G.lookup (w.setWidth 8) with
    | none => false
    | some j =>
      match decodeWord 0 G.entries[j] w with
      | .ok _ => true
      | .error _ => false

/-- The value a register reads after reset, NOW and PARAMS apart (rule R301). -/
def resetValue : Reg → Word
  | .id => 0x41343239
  | .version => 0x00010000
  | .lp _ (.k1 .lo) => 0x4C1C3845
  | .lp _ (.k1 .hi) => 0x3FE8E379
  | .lp _ (.k2 .lo) => 0xCF8F1EEC
  | .lp _ (.k2 .hi) => 0x3FCC721A
  | .df _ (.k1 .lo) => 0x7AE147AE
  | .df _ (.k1 .hi) => 0x3FEFAE14
  | .df _ (.fs .hi) => 0x40490000
  | .df _ (.ul .hi) => 0x40668000
  | .df _ (.ll .hi) => 0xC0668000
  | .df _ (.ud .hi) => 0x40768000
  | .df _ (.ld .hi) => 0xC0768000
  | _ => 0

/-- A free NaN for each operation of a command (rule R12). -/
def AllNaN (n : Nat → Flt) : Prop := ∀ k, Flt.isNaN (n k) = true

end Sys2Proof.Spec

open Sys2Proof Sys2Proof.Machine Sys2Proof.Safety Sys2Proof.Spec

/-! ### Encoding -/

/-- Every command that fits the format is read back from its word, and from its four bytes in little-endian order
whatever bytes follow (rules R74, R106-R108, R112). -/
def Obligations.EncodedCommandsDecodeToThemselves : Prop :=
  ∀ i : Instr, i.WellFormed →
    decode (encode i) = .ok i ∧ ∀ rest, decodeBytes (bytesOfWord (encode i) ++ rest) = .ok (i, rest)

/-- A word that decodes is the word of the command it decodes to: no two words have one meaning (rules R106, R110). -/
def Obligations.DecodedWordsAreCanonical : Prop :=
  ∀ (c : Word) (i : Instr), decode c = .ok i → i.WellFormed ∧ encode i = c

/-- The decoder accepts exactly the words that a row of rule R109 selects, as the command of that row, and its operands
are the fields of the word (rules R107-R110). -/
def Obligations.LegalWordsAreThoseOfTheTable : Prop :=
  ∀ c : Word,
    (∀ i, decode c = .ok i → OperandsOf c i ∧ ∃ r ∈ rows, r.Selects c ∧ r.name = mnemonic i) ∧
    (∀ r ∈ rows, r.Selects c → ∃ i, decode c = .ok i ∧ mnemonic i = r.name)

/-- The example words of rule R113 decode to the commands they stand for. -/
def Obligations.ExampleWordsDecode : Prop :=
  decode 0x00000001 = .ok .lock ∧ decode 0x00002010 = .ok (.dec 2) ∧ decode 0x00701011 = .ok (.enc 1 3 1) ∧
  decode 0x00000020 = .ok (.rxw 0) ∧ decode 0x0000B023 = .ok (.getd 0 0x0B) ∧
  decode 0x000D0024 = .ok (.getw 0 0xD0) ∧ decode 0x0000003A = .ok (.dfstep 0) ∧
  decode 0x0100303C = .ok (.dfspool 0 3 true)

/-! ### The host port and the other agents -/

/-- A command word written to CMD runs the command it decodes to, and the port answers the write; it stalls while a
DRAIN is in progress (rules R72, R79). -/
def Obligations.StepRunsTheDecodedCommand : Prop :=
  ∀ (s : State) (rest : List Event) (c : Word) (i : Instr),
    s.drain = none → s.agenda = .host (.write 0x0010 4 c) :: rest → decode c = .ok i →
    ∃ t, exec i { s with agenda := rest } = .next t ∧
      step s = .next { t with resp := if t.drain = none then .done else .stalled }

/-- An illegal command word ends with IllegalCommand, sets CMDERR and writes nothing else; only a write of 1 to STATUS
bit 2, or a reset, clears CMDERR (rule R271). -/
def Obligations.IllegalWordsEndIllegalCommand : Prop :=
  (∀ (s : State) (rest : List Event) (c : Word),
    s.drain = none → s.agenda = .host (.write 0x0010 4 c) :: rest → Illegal c →
    step s =
      .next { s with
        agenda := rest
        result := BitVec.ofNat 32 (7 + 256 * (c.toNat % 256))
        cmdErr := true
        resp := .done }) ∧
  (∀ s t : State, step s = .next t → s.cmdErr = true → t.cmdErr = false →
    ∃ rest, s.agenda = .reset :: rest ∨
      ∃ v : Word, s.agenda = .host (.write 0x000C 4 v) :: rest ∧ v.getLsbD 2 = true)

/-- An access that is misaligned or not 32 bits wide is answered with a bus error and has no effect (rule R76). -/
def Obligations.BrokenAccessesGetABusError : Prop :=
  ∀ (s : State) (rest : List Event) (a : BitVec 16) (bytes : Nat) (v : Word),
    s.drain = none → ¬ Legal a bytes →
    (s.agenda = .host (.read a bytes) :: rest ∨ s.agenda = .host (.write a bytes v) :: rest) →
    step s = .next { s with agenda := rest, resp := .busError }

/-- The address map names every register at one aligned address of rules R79-R82, and no other address. -/
def Obligations.RegistersHaveTheirAddresses : Prop :=
  (∀ r, RegExists 4 4 4 r → addressOf r < 2 ^ 16 ∧ 4 ∣ addressOf r ∧ regAt (addressOf r) = some r) ∧
  (∀ a r, regAt a = some r → RegExists 4 4 4 r ∧ addressOf r = a)

/-- Every register the implementation has shows the state element of rules R32-R47, at the bits of rules R33-R39 and
R80-R82: what the commands read and write by field is what the host reads, and by `WritesReachOneRegister` writes, by
register. -/
def Obligations.RegistersHoldTheFieldsOfTheirLayout : Prop :=
  ∀ (s : State) (r : Reg), SizesOk s → Mapped s r → ∃ k, Holds s k r ∧ (readReg s r).toNat = k

/-- A legal read returns the register at its address, 0 where there is none, and changes nothing but the port's answer;
at the address of NOW it returns a sample of `now_ms` (rules R38, R77, R78, R83, R84). -/
def Obligations.ReadsReturnTheRegisterAndChangeNothing : Prop :=
  ∀ (s : State) (rest : List Event) (a : BitVec 16),
    SizesOk s → s.drain = none → 4 ∣ a.toNat → s.agenda = .host (.read a 4) :: rest →
    ∃ v, step s = .next { s with agenda := rest, resp := .data v } ∧
      (∀ r, Mapped s r → addressOf r = a.toNat → v = readReg s r) ∧
      ((∀ r, Mapped s r → addressOf r ≠ a.toNat) → v = 0) ∧
      (a = 0x001C → v = s.env.now)

/-- A write to an operand register, or to a configuration register in CONFIG mode, is read back from that register
without its reserved bits, and changes no other register; a write to STATUS clears CMDERR where bit 2 is 1 and changes
nothing else (rules R35, R39, R48, R75, R78, R83). CMD apart: its write runs a command. Which field a register holds is
said by `RegistersHoldTheFieldsOfTheirLayout`. -/
def Obligations.WritesReachOneRegister : Prop :=
  ∀ (s : State) (rest : List Event) (r : Reg) (v : Word),
    SizesOk s → s.drain = none → Mapped s r → r ≠ .cmd →
    s.agenda = .host (.write (BitVec.ofNat 16 (addressOf r)) 4 v) :: rest →
    ∃ t, step s = .next t ∧ t.agenda = rest ∧ t.resp = .done ∧ t.env = s.env ∧ t.drain = none ∧
      (IsOperand r ∨ (IsConfig r ∧ s.locked = false) → Writes s t [(r, v &&& fieldBits r)]) ∧
      (r = .status →
        Writes s t [(.status, BitVec.ofNat 32
          (num s.locked + 2 * num s.cfgErr + 4 * num (s.cmdErr && !v.getLsbD 2)))])

/-- Unmapped addresses and registers the implementation lacks read 0 and ignore writes; reserved bits read 0 and ignore
writes; read-only registers, and configuration registers in RUN mode, ignore writes; none of these is a bus error or
changes RESULT (rule R77). -/
def Obligations.UnmappedReservedAndReadOnlyAreIgnored : Prop :=
  ∀ (s : State) (rest : List Event) (a : BitVec 16),
    SizesOk s → WordsOk s → s.drain = none → 4 ∣ a.toNat → a ≠ 0x0010 →
    ((∀ r, Mapped s r → addressOf r ≠ a.toNat) →
      (s.agenda = .host (.read a 4) :: rest → step s = .next { s with agenda := rest, resp := .data 0 }) ∧
      (∀ v, s.agenda = .host (.write a 4 v) :: rest → step s = .next { s with agenda := rest, resp := .done })) ∧
    (∀ r v, Mapped s r → addressOf r = a.toNat → ¬ IsOperand r → r ≠ .status →
      (IsConfig r → s.locked = true) → s.agenda = .host (.write a 4 v) :: rest →
      step s = .next { s with agenda := rest, resp := .done }) ∧
    (∀ r, Mapped s r → readReg s r &&& ~~~ fieldBits r = 0) ∧
    (∀ r v, writeReg s r v = writeReg s r (v &&& fieldBits r))

/-- In RUN mode no move but a reset changes a configuration field or leaves RUN mode, and no command changes a
configuration field in any mode (rules R48, R282, R306). -/
def Obligations.LockedConfigurationIsFrozen : Prop :=
  (∀ s t : State, step s = .next t → s.locked = true → (∀ rest, s.agenda ≠ .reset :: rest) →
    configOf t = configOf s ∧ t.locked = true) ∧
  (∀ (i : Instr) (s t : State), exec i s = .next t → configOf t = configOf s)

/-- The reset input puts every register at its reset value from any state and leaves the environment alone; the
machine's reset state has the same values, and the default PARAMS (rules R300-R302). That it also drops a DRAIN in
progress (`t.drain = none`) is the model's reading, log 5: no rule names a command in execution as state. -/
def Obligations.ResetPutsEveryRegisterAtItsResetValue : Prop :=
  (∀ (s : State) (rest : List Event), s.agenda = .reset :: rest →
    ∃ t, step s = .next t ∧ t.env = s.env ∧ t.agenda = rest ∧ t.drain = none ∧
      readReg t .params = readReg s .params ∧
      ∀ r, Mapped s r → r ≠ .now → r ≠ .params → readReg t r = resetValue r) ∧
  (∀ r, Mapped State.reset r → r ≠ .now → r ≠ .params → readReg State.reset r = resetValue r) ∧
  readReg State.reset .params = 0x02040113

/-- A move of the environment sets the level of `now_ms` or appends to one receive queue, whether or not a DRAIN runs,
and changes nothing else (rules R84, R85, R114). -/
def Obligations.EnvironmentMovesTouchOnlyTheInputs : Prop :=
  (∀ (s : State) (rest : List Event) (n : Word), s.agenda = .now n :: rest →
    step s = .next { s with agenda := rest, env := { s.env with now := n } }) ∧
  (∀ (s : State) (rest : List Event) (g : Nat) (ws : List Word) (p : Port),
    s.agenda = .deliver g ws :: rest → s.env.ports[g]? = some p →
    ∃ t, step s = .next t ∧ t.env.ports[g]? = some { p with queue := p.queue ++ ws } ∧
      (∀ g', g' ≠ g → t.env.ports[g']? = s.env.ports[g']?) ∧
      { t with agenda := s.agenda, env := s.env } = s ∧ t.agenda = rest ∧ t.env.now = s.env.now)

/-! ### The common frame -/

/-- Every legal command but NOP and LOCK ends NotLocked in CONFIG mode and writes nothing else (rule R272). -/
def Obligations.CommandsNeedALockedConfiguration : Prop :=
  ∀ (i : Instr) (s : State), i ≠ .nop → i ≠ .lock → s.locked = false →
    exec i s = .next { s with result := BitVec.ofNat 32 (8 + 256 * opcode i) }

/-- In RUN mode a command whose group, engine or table entry does not exist ends InvalidArgument and writes nothing else
(rule R273). -/
def Obligations.BadIndicesEndInvalidArgument : Prop :=
  ∀ (i : Instr) (s : State), s.locked = true → BadIndex s i →
    exec i s = .next { s with result := BitVec.ofNat 32 (3 + 256 * opcode i) }

/-- No command and no move stops the machine, and a command leaves a result code of 0 to 8 and its opcode in RESULT,
but for a DRAIN that is still in progress (rules R34, R270, R280). -/
def Obligations.EveryCommandAnswersAndWritesResult : Prop :=
  (∀ (i : Instr) (s : State), ∃ t, exec i s = .next t ∧
    ((∃ code, code ≤ 8 ∧ t.result = BitVec.ofNat 32 (code + 256 * opcode i)) ∨
      ((∃ g, i = .drain g) ∧ t.drain ≠ none ∧ t.result = s.result))) ∧
  (∀ s : State, SafeStep s)

/-- A command that ends with a failure code writes nothing but RESULT; a failed LOCK also writes STATUS and ERRINFO, and a
GETW on an absent label also writes OUTW and OUTF (rules R32, R270, R275). -/
def Obligations.FailedCommandsWriteOnlyResult : Prop :=
  ∀ (i : Instr) (s t : State), exec i s = .next t → 2 ≤ t.result.toNat % 256 →
    ((∃ g, i = .drain g) → t.drain = none) →
    t.env = s.env ∧ t.agenda = s.agenda ∧ t.resp = s.resp ∧
    ∀ r, r ≠ .result → (i = .lock → r ≠ .status ∧ r ≠ .errinfo) →
      ((∃ g o, i = .getw g o) → r ≠ .outw ∧ r ≠ .outf) → readReg t r = readReg s r

/-! ### Control -/

/-- NOP writes 0 to RESULT and nothing else, in any mode, and no other word with its opcode is legal (rule R130). -/
def Obligations.NopWritesOnlyResult : Prop :=
  (∀ s : State, Effect .nop s [(.result, 0)]) ∧
  (∀ c : Word, c.toNat % 256 = 0 → c ≠ 0 → Illegal c ∧ ∀ i, decode c ≠ .ok i)

/-- `check_entry` answers 0 exactly for a legal entry, and else the reason of the first check that fails (rule R132). -/
def Obligations.CheckEntryNamesTheFirstFailure : Prop :=
  ∀ c : LabelConfig, (checkEntry c = 0 ↔ LegalEntry c) ∧ ∀ r, r ≠ 0 → (checkEntry c = r ↔ FailsWith c r)

/-- LOCK: Success without effect while locked; else it locks exactly a legal configuration, and otherwise sets CFGERR and
names the first failure in ERRINFO (rule R131). -/
def Obligations.LockValidatesAndFreezes : Prop :=
  ∀ s : State, SizesOk s →
    (s.locked = true → Effect .lock s [res 0 0x01]) ∧
    (s.locked = false → Validated s →
      Effect .lock s [(.status, BitVec.ofNat 32 (1 + 4 * num s.cmdErr)), res 0 0x01]) ∧
    (¬ Validated s ↔ ∃ r table g idx, FirstFailure s r table g idx) ∧
    (∀ r table g idx, s.locked = false → FirstFailure s r table g idx →
      Effect .lock s
        [(.status, BitVec.ofNat 32 (2 + 4 * num s.cmdErr)),
         (.errinfo, BitVec.ofNat 32 (r + 16 * table + 256 * g + 4096 * idx)), res 3 0x01])

/-! ### Codec -/

/-- decode_bnr on a legal entry (rule R150): the n+1-bit two's-complement field times the resolution, whatever a NaN
result would be. -/
def Obligations.BnrDecodingFollowsTheLayout : Prop :=
  ∀ (nan nan' : Flt) (c : LabelConfig) (w : Word), LegalEntry c → c.msgType = .bnr →
    decodeWord nan c w = .ok
      { engf := Flt.mul nan' (Flt.ofInt (bnrValue c.nsig.toNat w)) c.res
        engi := clampI32 (Flt.roundHalfAway (Flt.mul nan' (Flt.ofInt (bnrValue c.nsig.toNat w)) c.res))
        disc := BitVec.ofNat 32 (discOf c w)
        ssm := BitVec.ofNat 2 (bits w 30 29)
        sdi := if c.nsig.toNat > 18 then 0 else BitVec.ofNat 2 (bits w 9 8) }

/-- decode_bcd (rule R151): InvalidMessage for an entry whose digits do not fit and for a digit above 9, else, on a legal
entry, the decimal number of the top-aligned digits times the resolution, the SSM kept and not applied as a sign. -/
def Obligations.BcdDecodingFollowsTheLayout : Prop :=
  ∀ (nan nan' : Flt) (c : LabelConfig) (w : Word), c.msgType = .bcd →
    (c.nsig.toNat < 1 ∨ 5 < c.nsig.toNat ∨ 19 < 4 * c.nsig.toNat - 1 + c.ndisc.toNat →
      decodeWord nan c w = .error .invalidMessage) ∧
    ((∃ i, i < c.nsig.toNat ∧ 9 < digit c.nsig.toNat w i) → decodeWord nan c w = .error .invalidMessage) ∧
    (LegalEntry c → (∀ i, i < c.nsig.toNat → digit c.nsig.toNat w i ≤ 9) →
      decodeWord nan c w = .ok
        { engf := Flt.mul nan' (Flt.ofInt (digitSum c.nsig.toNat w)) c.res
          engi := clampI32 (Flt.roundHalfAway (Flt.mul nan' (Flt.ofInt (digitSum c.nsig.toNat w)) c.res))
          disc := BitVec.ofNat 32 (discOf c w)
          ssm := BitVec.ofNat 2 (bits w 30 29)
          sdi := BitVec.ofNat 2 (bits w 9 8) })

/-- decode_discrete (rule R152): the discrete bits from bit 10 up, no engineering value. -/
def Obligations.DiscreteDecodingFollowsTheLayout : Prop :=
  ∀ (nan : Flt) (c : LabelConfig) (w : Word), c.msgType = .discrete →
    decodeWord nan c w = .ok
      { engf := 0
        engi := 0
        disc := BitVec.ofNat 32 (discOf c w)
        ssm := BitVec.ofNat 2 (bits w 30 29)
        sdi := BitVec.ofNat 2 (bits w 9 8) }

/-- DEC (rule R160) writes OUTA, OUTI, OUTD and OUTF from what the decoder gives, or only RESULT where it gives an
error. -/
def Obligations.DecWritesTheDecodedFields : Prop :=
  ∀ (s : State) (t : Nat) (c : LabelConfig), s.locked = true → EntryIs s t c →
    (∀ d, (∀ nan, decodeWord nan c s.opw = .ok d) →
      Effect (.dec t) s
        (pair .outa d.engf ++
          [(.outi, BitVec.ofInt 32 d.engi), (.outd, d.disc), (.outf, flagsOf d.ssm.toNat d.sdi.toNat), res 0 0x10])) ∧
    ((∀ nan, decodeWord nan c s.opw = .error .invalidMessage) → Effect (.dec t) s [res 4 0x10])

/-- encode_bnr on a legal entry (rule R154): InvalidMsgData for a NaN; else the rounded quotient, clipped to
[−2^n, 2^n − 1], in two's complement in w[28 : 28−n], with label, discrete bits, SDI (n ≤ 18) and SSM. -/
def Obligations.BnrEncodingFollowsTheLayout : Prop :=
  ∀ (nan nan' : Flt) (c : LabelConfig) (x : Flt) (disc : Word) (ssm sdi : BitVec 2),
    LegalEntry c → c.msgType = .bnr →
    (Flt.isNaN x = true → encodeWord nan c x disc ssm sdi = .error .invalidMsgData) ∧
    (∀ v : Int, Flt.isNaN x = false → v = clampI32 (Flt.roundHalfAway (Flt.div nan' x c.res)) →
      (v < -2 ^ c.nsig.toNat →
        encodeWord nan c x disc ssm sdi = .ok ⟨bnrWord c (-2 ^ c.nsig.toNat) disc ssm sdi, true⟩) ∧
      (2 ^ c.nsig.toNat - 1 < v →
        encodeWord nan c x disc ssm sdi = .ok ⟨bnrWord c (2 ^ c.nsig.toNat - 1) disc ssm sdi, true⟩) ∧
      (-2 ^ c.nsig.toNat ≤ v → v ≤ 2 ^ c.nsig.toNat - 1 →
        encodeWord nan c x disc ssm sdi = .ok ⟨bnrWord c v disc ssm sdi, false⟩))

/-- encode_bcd on a legal entry (rule R155): InvalidMsgData for a NaN or a negative value; else the decimal digits of
the rounded quotient, clipped to 7 followed by nines. -/
def Obligations.BcdEncodingFollowsTheLayout : Prop :=
  ∀ (nan nan' : Flt) (c : LabelConfig) (x : Flt) (disc : Word) (ssm sdi : BitVec 2),
    LegalEntry c → c.msgType = .bcd →
    (Flt.isNaN x = true ∨ Flt.lt x 0 = true → encodeWord nan c x disc ssm sdi = .error .invalidMsgData) ∧
    (∀ v : Int, Flt.isNaN x = false → Flt.lt x 0 = false →
      v = clampI32 (Flt.roundHalfAway (Flt.div nan' x c.res)) →
      0 ≤ v ∧
      (8 * 10 ^ (c.nsig.toNat - 1) - 1 < v →
        encodeWord nan c x disc ssm sdi = .ok ⟨bcdWord c (8 * 10 ^ (c.nsig.toNat - 1) - 1) disc ssm sdi, true⟩) ∧
      (v ≤ 8 * 10 ^ (c.nsig.toNat - 1) - 1 →
        encodeWord nan c x disc ssm sdi = .ok ⟨bcdWord c v.toNat disc ssm sdi, false⟩))

/-- encode_discrete (rule R156): the discrete bits left-justified in w[28 : 29−d], the engineering value not read; a
19-bit word is read back by decode_discrete. -/
def Obligations.DiscreteEncodingIsLeftJustified : Prop :=
  ∀ (nan : Flt) (c : LabelConfig) (x : Flt) (disc : Word) (ssm sdi : BitVec 2),
    LegalEntry c → c.msgType = .discrete →
    ∃ w, encodeWord nan c x disc ssm sdi = .ok ⟨w, false⟩ ∧
      w = (BitVec.ofNat 32 (disc.toNat % 2 ^ c.ndisc.toNat * 2 ^ (29 - c.ndisc.toNat)) ||| encCommon c ssm sdi) ∧
      bits w 28 (29 - c.ndisc.toNat) = disc.toNat % 2 ^ c.ndisc.toNat ∧
      (c.ndisc = 19 →
        decodeWord nan c w = .ok ⟨0, 0, BitVec.ofNat 32 (disc.toNat % 2 ^ 19), ssm, sdi⟩)

/-- ENC (rule R161) writes the encoded word and Success or SentDataClipped, or only RESULT where the encoder gives an
error. -/
def Obligations.EncWritesTheEncodedWord : Prop :=
  ∀ (s : State) (t : Nat) (c : LabelConfig) (ssm sdi : BitVec 2), s.locked = true → EntryIs s t c →
    (∀ w clipped, (∀ nan, encodeWord nan c s.opa s.opd ssm sdi = .ok ⟨w, clipped⟩) →
      Effect (.enc t ssm sdi) s [(.outw, w), res (num clipped) 0x11]) ∧
    ((∀ nan, encodeWord nan c s.opa s.opd ssm sdi = .error .invalidMsgData) →
      Effect (.enc t ssm sdi) s [res 5 0x11])

/-- CHKV (rules R158, R162): OUTF holds Failure Warning for a NaN or a value outside an enabled bound, else Normal
Operation, for an entry of any type. -/
def Obligations.ChkvReportsValidity : Prop :=
  ∀ (s : State) (t : Nat) (c : LabelConfig) (ssm : Nat), s.locked = true → EntryIs s t c →
    ValiditySsm s.opa c ssm → Effect (.chkv t) s [(.outf, BitVec.ofNat 32 ssm), res 0 0x12]

/-- BNR round trip and clipping (rule R164, laws 1 and 2): the decoded value of an encoded word is the clipped rounded
quotient times the resolution; it never wraps. The discrete field must not overlap the value field (D44). -/
def Obligations.BnrWordsRoundTrip : Prop :=
  ∀ (nan nan' : Flt) (c : LabelConfig) (x : Flt) (disc : Word) (ssm sdi : BitVec 2) (v : Int),
    LegalEntry c → c.msgType = .bnr → Flt.isNaN x = false →
    (c.ndisc = 0 ∨ 10 + c.ndisc.toNat ≤ 28 - c.nsig.toNat) →
    v = clampI32 (Flt.roundHalfAway (Flt.div nan x c.res)) →
    ∃ e d, encodeWord nan c x disc ssm sdi = .ok e ∧ decodeWord nan' c e.word = .ok d ∧
      d.engf = Flt.mul nan' (Flt.ofInt (min (max v (-2 ^ c.nsig.toNat)) (2 ^ c.nsig.toNat - 1))) c.res ∧
      (e.clipped = true ↔ v < -2 ^ c.nsig.toNat ∨ 2 ^ c.nsig.toNat - 1 < v) ∧
      d.disc = BitVec.ofNat 32 (disc.toNat % 2 ^ c.ndisc.toNat) ∧ d.ssm = ssm ∧
      (c.nsig.toNat ≤ 18 → d.sdi = sdi) ∧ e.word.setWidth 8 = c.label ∧ e.word.getLsbD 31 = false

/-- BCD round trip (rule R164, law 3): an encoded word decodes to the clipped rounded quotient, digit for digit. -/
def Obligations.BcdWordsRoundTrip : Prop :=
  ∀ (nan nan' : Flt) (c : LabelConfig) (x : Flt) (disc : Word) (ssm sdi : BitVec 2) (v : Int),
    LegalEntry c → c.msgType = .bcd → Flt.isNaN x = false → Flt.lt x 0 = false →
    v = clampI32 (Flt.roundHalfAway (Flt.div nan x c.res)) →
    ∃ e d, encodeWord nan c x disc ssm sdi = .ok e ∧ decodeWord nan' c e.word = .ok d ∧
      d.engf = Flt.mul nan' (Flt.ofInt (min v (8 * 10 ^ (c.nsig.toNat - 1) - 1))) c.res ∧
      (e.clipped = true ↔ 8 * 10 ^ (c.nsig.toNat - 1) - 1 < v) ∧
      d.disc = BitVec.ofNat 32 (disc.toNat % 2 ^ c.ndisc.toNat) ∧ d.ssm = ssm ∧ d.sdi = sdi ∧
      e.word.setWidth 8 = c.label ∧ e.word.getLsbD 31 = false

/-! ### Real arithmetic -/

/-- The four operations on finite operands give the exact real result rounded to nearest, ties to even, and `flt` of an
integer up to 2^53 is exact (rule R12). The sign of an exact zero is that of IEEE 754, in each of the four operations
and the conversion. -/
def Obligations.ArithmeticIsCorrectlyRounded : Prop :=
  (∀ nan x y : Flt, FiniteValue x → FiniteValue y →
    Rounded (value x + value y) (Flt.add nan x y) ∧
    Rounded (value x - value y) (Flt.sub nan x y) ∧
    Rounded (value x * value y) (Flt.mul nan x y) ∧
    (value y ≠ 0 → Rounded (value x / value y) (Flt.div nan x y)) ∧
    (value x + value y = 0 → (Negative (Flt.add nan x y) ↔ Negative x ∧ Negative y)) ∧
    (value x - value y = 0 → (Negative (Flt.sub nan x y) ↔ Negative x ∧ ¬ Negative y)) ∧
    (value x * value y = 0 → (Negative (Flt.mul nan x y) ↔ ¬ (Negative x ↔ Negative y))) ∧
    (value x = 0 → value y ≠ 0 → (Negative (Flt.div nan x y) ↔ ¬ (Negative x ↔ Negative y)))) ∧
  (∀ z : Int, |z| ≤ 2 ^ 53 → FiniteValue (Flt.ofInt z) ∧ value (Flt.ofInt z) = z ∧ (Negative (Flt.ofInt z) ↔ z < 0))

/-- A NaN operand, ∞ − ∞, 0 · ∞, 0 / 0 and ∞ / ∞ give a NaN whatever its pattern; every other operation with an
infinite operand, in either place, and every division by a zero gives the infinity or zero of IEEE 754 with its sign
(rules R12, R230). Zeros with finite operands are `ArithmeticIsCorrectlyRounded`'s. -/
def Obligations.SpecialOperandsFollowIeee754 : Prop :=
  ∀ nan x y : Flt, Flt.isNaN nan = true →
    (Flt.isNaN x = true ∨ Flt.isNaN y = true →
      Flt.isNaN (Flt.add nan x y) = true ∧ Flt.isNaN (Flt.sub nan x y) = true ∧
      Flt.isNaN (Flt.mul nan x y) = true ∧ Flt.isNaN (Flt.div nan x y) = true) ∧
    (Flt.isInf x = true → Flt.isInf y = true →
      ((Negative x ↔ Negative y) → Flt.add nan x y = x ∧ Flt.isNaN (Flt.sub nan x y) = true) ∧
      (¬ (Negative x ↔ Negative y) → Flt.isNaN (Flt.add nan x y) = true ∧ Flt.sub nan x y = x) ∧
      IsInfinity (Flt.mul nan x y) (¬ (Negative x ↔ Negative y)) ∧ Flt.isNaN (Flt.div nan x y) = true) ∧
    (Flt.isInf x = true → FiniteValue y →
      Flt.add nan x y = x ∧ Flt.add nan y x = x ∧ Flt.sub nan x y = x ∧
      IsInfinity (Flt.sub nan y x) (¬ Negative x) ∧
      (value y = 0 → Flt.isNaN (Flt.mul nan x y) = true ∧ Flt.isNaN (Flt.mul nan y x) = true) ∧
      (value y ≠ 0 → IsInfinity (Flt.mul nan x y) (¬ (Negative x ↔ Negative y)) ∧
        IsInfinity (Flt.mul nan y x) (¬ (Negative x ↔ Negative y))) ∧
      IsInfinity (Flt.div nan x y) (¬ (Negative x ↔ Negative y)) ∧
      FiniteValue (Flt.div nan y x) ∧ value (Flt.div nan y x) = 0 ∧
      (Negative (Flt.div nan y x) ↔ ¬ (Negative x ↔ Negative y))) ∧
    (FiniteValue x → FiniteValue y → value y = 0 →
      (value x = 0 → Flt.isNaN (Flt.div nan x y) = true) ∧
      (value x ≠ 0 → IsInfinity (Flt.div nan x y) (¬ (Negative x ↔ Negative y))))

/-- The comparison of finite values is that of the reals, infinities are beyond every finite value and each other, none
is below itself, and it is false for a NaN (rule R12). -/
def Obligations.ComparisonIsTheRealOrder : Prop :=
  ∀ x y : Flt,
    (FiniteValue x → FiniteValue y → (Flt.lt x y = true ↔ value x < value y)) ∧
    (Flt.isNaN x = true ∨ Flt.isNaN y = true → Flt.lt x y = false) ∧
    (FiniteValue x → (Flt.lt x 0x7FF0000000000000 = true ∧ Flt.lt 0xFFF0000000000000 x = true ∧
      Flt.lt 0x7FF0000000000000 x = false ∧ Flt.lt x 0xFFF0000000000000 = false)) ∧
    (Flt.isInf x = true → Flt.isInf y = true → (Flt.lt x y = true ↔ Negative x ∧ ¬ Negative y))

/-- `round_half_away` gives the nearest integer, the one of larger magnitude when two are equally near, and ±∞ for ±Inf;
`clamp_i32` saturates (rule R13). -/
def Obligations.RoundHalfAwayIsTheNearestInteger : Prop :=
  (∀ x : Flt, FiniteValue x → ∃ z : Int, Flt.roundHalfAway x = .fin z ∧
    (∀ k : Int, |(z : ℚ) - value x| ≤ |(k : ℚ) - value x|) ∧
    (∀ k : Int, |(k : ℚ) - value x| = |(z : ℚ) - value x| → |k| ≤ |z|)) ∧
  Flt.roundHalfAway 0x7FF0000000000000 = .posInf ∧ Flt.roundHalfAway 0xFFF0000000000000 = .negInf ∧
  clampI32 .posInf = 2147483647 ∧ clampI32 .negInf = -2147483648 ∧
  (∀ z : Int, (z < -2147483648 → clampI32 (.fin z) = -2147483648) ∧
    (2147483647 < z → clampI32 (.fin z) = 2147483647) ∧
    (-2147483648 ≤ z → z ≤ 2147483647 → clampI32 (.fin z) = z))

/-! ### Receive pipeline -/

/-- RXW (rules R190, R191, R200): a word that decodes goes to the slot of its label, with the not-babbling bit against
the previous receipt, and clears the group's count; an absent label or a bad digit writes nothing but RESULT. -/
def Obligations.RxwRoutesTheWordToItsSlot : Prop :=
  ∀ (s : State) (g : Nat) (G : Group), s.locked = true → s.groups[g]? = some G →
    (Absent G (s.opw.setWidth 8) → Effect (.rxw g) s [res 2 0x20]) ∧
    (∀ j, Finds G (s.opw.setWidth 8) j →
      ((∀ nan, decodeWord nan G.entries[j] s.opw = .error .invalidMessage) → Effect (.rxw g) s [res 4 0x20]) ∧
      (∀ d nb, (∀ nan, decodeWord nan G.entries[j] s.opw = .ok d) →
        IsBit (G.entries[j].minTx.toNat ≤ elapsedMs s.env.now G.slots[j].lastGood) nb →
        Effect (.rxw g) s (receiptWrites g j s.opw s.env.now d nb ++ [res 0 0x20])))

/-- A step changes a slot of group g only if it is a reset, an iteration of a DRAIN of g, or the write of RXW g or DRAIN
g to CMD (rules R43, R192). -/
def Obligations.OnlyReceiptsWriteSlots : Prop :=
  ∀ (s t : State) (g : Nat) (j : Fin Config.tableSize) (r : SlotReg), step s = .next t →
    readReg t (.slot g j r) ≠ readReg s (.slot g j r) →
    (∃ rest, s.agenda = .reset :: rest) ∨
    (∃ d, s.drain = some d ∧ d.grp = g ∧ ∃ G, s.groups[g]? = some G ∧ Finds G ((s.rxHead g).setWidth 8) j) ∨
    (s.drain = none ∧ ∃ c rest, s.agenda = .host (.write 0x0010 4 c) :: rest ∧ ∃ G, s.groups[g]? = some G ∧
      ((decode c = .ok (.rxw g) ∧ Finds G (s.opw.setWidth 8) j) ∨
       (decode c = .ok (.drain g) ∧ Finds G ((s.rxHead g).setWidth 8) j)))

/-- DRAIN on a port that is absent or empty reads no word and ends Success (rule R205). -/
def Obligations.DrainOfAnEmptyPortReadsNothing : Prop :=
  ∀ (s : State) (g : Nat) (p : Port), s.locked = true → g < s.groups.length → s.drain = none →
    s.env.ports[g]? = some p → (p.present = false ∨ p.queue = []) →
    Effect (.drain g) s [(.outi, 0), (.outd, 0), res 0 0x21]

/-- Every iteration of DRAIN, the first (in the write to CMD) and each later one (a step with a DRAIN in progress; rules
R104, R191, R205): it takes the head of the queue, does with the word what `WordEffect` says and counts it; the 32nd
word, or a port that is not ready, ends the DRAIN with its counts in OUTI and OUTD. -/
def Obligations.DrainTakesOneWordAnIteration : Prop :=
  ∀ (s : State) (g : Nat),
    (∀ (G : Group) (p : Port) (w : Word) (q : List Word) (ws : List (Reg × Word)) (ok : Nat),
      s.groups[g]? = some G → s.env.ports[g]? = some p → p.present = true → p.queue = w :: q →
      WordEffect s g G w ws ok →
      (s.locked = true → ∃ t, exec (.drain g) s = .next t ∧
        t.env = { s.env with ports := s.env.ports.set g { p with queue := q } } ∧
        t.agenda = s.agenda ∧ t.resp = s.resp ∧ Writes s t ws ∧ t.drain = some ⟨g, 1, ok⟩) ∧
      (∀ nread nok rest, s.drain = some ⟨g, nread, nok⟩ → nread < 32 → BlockMoves s rest →
        ∃ t, step s = .next t ∧
          t.env = { s.env with ports := s.env.ports.set g { p with queue := q } } ∧ t.agenda = rest ∧
          (nread < 31 → Writes s t ws ∧ t.drain = some ⟨g, nread + 1, nok + ok⟩ ∧ t.resp = .stalled) ∧
          (nread = 31 → Writes s t (ws ++ drainEnd 32 (nok + ok)) ∧ t.drain = none ∧ t.resp = .done))) ∧
    (∀ nread nok rest, ¬ PortReady s g → s.drain = some ⟨g, nread, nok⟩ → BlockMoves s rest →
      ∃ t, step s = .next t ∧ t.env = s.env ∧ t.agenda = rest ∧ Writes s t (drainEnd nread nok) ∧
        t.drain = none ∧ t.resp = .done)

/-- A DRAIN with a quiet environment reads the first 32 words queued, or all if there are fewer, counts those that
succeed, and ends Success within 32 more steps (rule R205). -/
def Obligations.DrainRunsToItsEnd : Prop :=
  ∀ (s : State) (g : Nat) (G : Group) (p : Port),
    s.locked = true → s.drain = none → s.agenda = [] → s.groups[g]? = some G → s.env.ports[g]? = some p →
    p.present = true →
    ∃ t u : State, exec (.drain g) s = .next t ∧ Sys2Proof.core.run 32 t = .next u ∧ u.drain = none ∧
      u.env = { s.env with ports := s.env.ports.set g { p with queue := p.queue.drop 32 } } ∧
      u.outi = BitVec.ofNat 32 (min p.queue.length 32) ∧
      u.outd = BitVec.ofNat 32 ((p.queue.take 32).filter (drainGood G)).length ∧
      u.result = 0x2100 ∧ configOf u = configOf s

/-- While a DRAIN runs, a waiting host transaction stays where it is and the block takes one iteration: where the port
is not ready or the word is the 32nd, the DRAIN ends and the port answers; else it has read one word more and the port
stalls (rules R72, R205). -/
def Obligations.HostWaitsWhileDrainRuns : Prop :=
  ∀ (s : State) (d : DrainProgress) (x : Txn) (rest : List Event),
    s.drain = some d → d.nread < 32 → s.agenda = .host x :: rest →
    ∃ t, step s = .next t ∧ t.agenda = s.agenda ∧
      (¬ PortReady s d.grp ∨ d.nread = 31 → t.drain = none ∧ t.resp = .done ∧ t.result = 0x2100) ∧
      (PortReady s d.grp → d.nread < 31 →
        ∃ d', t.drain = some d' ∧ d'.grp = d.grp ∧ d'.nread = d.nread + 1 ∧ t.resp = .stalled ∧ t.result = s.result)

/-- TICK (rule R210): the count goes up by one, saturating; the group has failed exactly when the count has reached its
maximum. -/
def Obligations.TickCountsAndReportsFailure : Prop :=
  ∀ (s : State) (g : Nat) (G : Group) (cnt failed : Nat), s.locked = true → s.groups[g]? = some G →
    cnt = min (G.cnt.toNat + 1) (2 ^ 32 - 1) → IsBit (G.maxbf.toNat ≤ cnt) failed →
    Effect (.tick g) s
      [(.gcnt g, BitVec.ofNat 32 cnt), (.gstat g, BitVec.ofNat 32 failed), (.outi, BitVec.ofNat 32 cnt),
       (.outf, BitVec.ofNat 32 (64 * failed)), res 0 0x22]

/-- After k TICKs without a receipt, from a count of 0, the count is min(k, 2^32 − 1) and the failure flag is its
comparison with the maximum (rule R228, law 5). -/
def Obligations.TicksCountUpToFailure : Prop :=
  ∀ (s : State) (g : Nat) (G : Group) (k : Nat), s.locked = true → s.groups[g]? = some G → G.cnt = 0 → 0 < k →
    ∃ t G', repeatCmd (.tick g) k s = some t ∧ t.groups[g]? = some G' ∧
      G'.cnt.toNat = min k (2 ^ 32 - 1) ∧ (G'.failed = true ↔ G.maxbf.toNat ≤ min k (2 ^ 32 - 1))

/-- GETD (rules R190, R220): the slot of the label, with FRESH computed from one sample of the time; only RESULT for an
absent label. -/
def Obligations.GetdReturnsTheSlotAndItsFreshness : Prop :=
  ∀ (s : State) (g : Nat) (G : Group) (label : BitVec 8), s.locked = true → s.groups[g]? = some G →
    (Absent G label → Effect (.getd g label) s [res 2 0x23]) ∧
    (∀ j fresh, Finds G label j →
      IsBit (elapsedMs s.env.now G.slots[j].lastGood ≤ G.entries[j].maxTx.toNat) fresh →
      Effect (.getd g label) s
        (pair .outa G.slots[j].engf ++
          [(.outw, G.slots[j].raw), (.outi, G.slots[j].engi), (.outd, G.slots[j].disc), (.outt, G.slots[j].lastGood),
           (.outf, BitVec.ofNat 32
             (G.slots[j].sm.toNat + 4 * G.slots[j].sdi.toNat + 16 * fresh + 32 * num G.slots[j].nb)),
           res 0 0x23]))

/-- GETW (rules R14, R225): the raw word of an octal label, whose wire label is its bit reversal, and BOOL for fresh and
not babbling; zeros and NoMatchingLabel for an absent label. -/
def Obligations.GetwReturnsTheWordAndItsUsability : Prop :=
  ∀ (s : State) (g : Nat) (G : Group) (octal wire : BitVec 8), s.locked = true → s.groups[g]? = some G →
    (∀ k, k < 8 → wire.getLsbD k = octal.getLsbD (7 - k)) →
    (Absent G wire → Effect (.getw g octal) s [(.outw, 0), (.outf, 0), res 2 0x24]) ∧
    (∀ j usable, Finds G wire j →
      IsBit (elapsedMs s.env.now G.slots[j].lastGood ≤ G.entries[j].maxTx.toNat ∧ G.slots[j].nb = true) usable →
      Effect (.getw g octal) s
        [(.outw, G.slots[j].raw), (.outf, BitVec.ofNat 32 (64 * usable)), res 0 0x24])

/-- A GETD sampled k ms after the last good receipt reports FRESH exactly when k ≤ max_tx (rule R228, law 1). -/
def Obligations.FreshnessEndsAtMaxTx : Prop :=
  ∀ (s : State) (g : Nat) (G : Group) (j : Fin Config.tableSize) (d : Decoded) (k : Nat),
    s.locked = true → s.groups[g]? = some G → Finds G (s.opw.setWidth 8) j →
    (∀ nan, decodeWord nan G.entries[j] s.opw = .ok d) → k < 2 ^ 32 →
    ∃ t u, exec (.rxw g) s = .next t ∧
      exec (.getd g (s.opw.setWidth 8)) { t with env := { t.env with now := s.env.now + BitVec.ofNat 32 k } } =
        .next u ∧
      (u.outf.getLsbD 4 = true ↔ k ≤ G.entries[j].maxTx.toNat)

/-- A word received k ms after the last good receipt on its slot leaves the slot not babbling exactly when k ≥ min_tx
(rule R228, law 2). -/
def Obligations.FastWordsAreBabbling : Prop :=
  ∀ (s : State) (g : Nat) (G : Group) (j : Fin Config.tableSize) (d d' : Decoded) (w : Word) (k : Nat),
    s.locked = true → s.groups[g]? = some G → Finds G (s.opw.setWidth 8) j →
    (∀ nan, decodeWord nan G.entries[j] s.opw = .ok d) → w.setWidth 8 = s.opw.setWidth 8 →
    (∀ nan, decodeWord nan G.entries[j] w = .ok d') → k < 2 ^ 32 →
    ∃ t u G', exec (.rxw g) s = .next t ∧
      exec (.rxw g) { t with opw := w, env := { t.env with now := s.env.now + BitVec.ofNat 32 k } } = .next u ∧
      u.groups[g]? = some G' ∧ (G'.slots[j].nb = true ↔ G.entries[j].minTx.toNat ≤ k)

/-! ### Filter engines and spool -/

/-- LPRST, LPPRE, DFRST and DFPRE (rules R240, R241, R245, R246) set the engine's filter state and nothing else; the
spool state is not touched. -/
def Obligations.EngineResetAndPreload : Prop :=
  (∀ (s : State) (e : Nat) (l : LowPass), s.locked = true → s.lp[e]? = some l →
    Effect (.lprst e) s (lpWrites e 0 false l.spool.good l.spool.count ++ [res 0 0x30]) ∧
    Effect (.lppre e) s (lpWrites e s.opa true l.spool.good l.spool.count ++ [res 0 0x31])) ∧
  (∀ (s : State) (e : Nat) (d : Diff), s.locked = true → s.df[e]? = some d →
    Effect (.dfrst e) s (dfWrites e 0 0 d.spool.good d.spool.count ++ [res 0 0x38]) ∧
    Effect (.dfpre e) s (dfWrites e s.opa 0 d.spool.good d.spool.count ++ [res 0 0x39]))

/-- LPSTEP (rules R242, R321): y = k1·prev + k2·x goes to OUTA and to the filter state; once the state or the sample is a
NaN, the output and the state are NaN. -/
def Obligations.LowPassStep : Prop :=
  ∀ (s : State) (e : Nat) (l : LowPass), s.locked = true → s.lp[e]? = some l →
    ∃ n, AllNaN n ∧
      Effect (.lpstep e) s
        (lpWrites e (lpOutput n l s.opa) l.pre l.spool.good l.spool.count ++ pair .outa (lpOutput n l s.opa) ++
          [res 0 0x32]) ∧
      (Flt.isNaN l.prev = true ∨ Flt.isNaN s.opa = true → Flt.isNaN (lpOutput n l s.opa) = true)

/-- DFSTEP (rules R231, R247): the clamped scaled difference, or the previous output outside the delta window, goes to
OUTA and to the filter state, and the sample becomes the previous input; a NaN sample or previous input gives a NaN. In
the steps after a NaN or an infinite sample this follows the pseudocode of rule R247, the model's choice against the words
of R247 (d) and R321 (log 14). -/
def Obligations.DifferentiatorStep : Prop :=
  ∀ (s : State) (e : Nat) (d : Diff), s.locked = true → s.df[e]? = some d →
    ∃ n, AllNaN n ∧ ∀ y, DfOutput n d s.opa y →
      Effect (.dfstep e) s
        (dfWrites e s.opa y d.spool.good d.spool.count ++ pair .outa y ++ [res 0 0x3A]) ∧
      (Flt.isNaN d.pin = true ∨ Flt.isNaN s.opa = true → Flt.isNaN y = true)

/-- A NaN sample reaches the output and the state of both filters, and a restart by the spool recovers them (rules R321,
R242, R247, R250). Low pass: after a NaN sample, or from a NaN state, every later LPSTEP gives a NaN. Differentiator: the
DFSTEP with the NaN sample and the one after it give a NaN, and no more is said of later ones: the previous input is then
that second sample, as the pseudocode of rule R247 has it (the model's choice where the words of R247 (d) and R321 say
that every later step gives a NaN: log 14). An invalid spool cycle recovers either engine: the next valid one preloads
it. -/
def Obligations.NanReachesBothFiltersAndASpoolRestartRecovers : Prop :=
  (∀ (s : State) (e : Nat) (l : LowPass) (x : Nat → Flt) (k : Nat), s.locked = true → s.lp[e]? = some l →
    (Flt.isNaN l.prev = true ∨ Flt.isNaN (x 1) = true) → 0 < k →
    ∃ t l', repeatWith (.lpstep e) x k s = some t ∧ Flt.isNaN t.outa = true ∧ t.lp[e]? = some l' ∧ l'.prev = t.outa) ∧
  (∀ (s : State) (e : Nat) (d : Diff) (x : Nat → Flt), s.locked = true → s.df[e]? = some d →
    Flt.isNaN (x 1) = true →
    ∃ t u d', repeatWith (.dfstep e) x 1 s = some t ∧ repeatWith (.dfstep e) x 2 s = some u ∧
      Flt.isNaN t.outa = true ∧ Flt.isNaN u.outa = true ∧ u.df[e]? = some d' ∧ d'.pin = x 2 ∧ d'.pout = u.outa) ∧
  (∀ (s : State) (e n : Nat) (l : LowPass) (c : LabelConfig) (x : Flt),
    s.locked = true → s.lp[e]? = some l → EntryIs s n c →
    ∃ t u l', exec (.lpspool e n false) s = .next t ∧ exec (.lpspool e n true) { t with opa := x } = .next u ∧
      u.lp[e]? = some l' ∧ l'.prev = x) ∧
  (∀ (s : State) (e n : Nat) (d : Diff) (c : LabelConfig) (x : Flt),
    s.locked = true → s.df[e]? = some d → EntryIs s n c →
    ∃ t u d', exec (.dfspool e n false) s = .next t ∧ exec (.dfspool e n true) { t with opa := x } = .next u ∧
      u.df[e]? = some d' ∧ d'.pin = x ∧ d'.pout = 0)

/-- LPSPOOL (rules R250, R252), in each of its five cases. -/
def Obligations.LowPassSpoolCycle : Prop :=
  ∀ (s : State) (e t : Nat) (l : LowPass) (c : LabelConfig), s.locked = true → s.lp[e]? = some l → EntryIs s t c →
    Effect (.lpspool e t false) s
      (lpWrites e l.prev l.pre false 0 ++ pair .outa 0 ++ [(.outf, 0), res 0 0x34]) ∧
    (l.spool.good = false → l.spool.count = 0 →
      Effect (.lpspool e t true) s (lpWrites e s.opa true false 1 ++ pair .outa 0 ++ [(.outf, 0), res 0 0x34])) ∧
    ∃ n, AllNaN n ∧
      (∀ k, l.spool.good = false → l.spool.count.toNat = k → 1 ≤ k → k ≤ 9 →
        Effect (.lpspool e t true) s
          (lpWrites e (lpOutput n l s.opa) l.pre false (BitVec.ofNat 32 (k + 1)) ++
            pair .outa (lpOutput n l s.opa) ++ [(.outf, 0), res 0 0x34])) ∧
      (∀ ssm, ValiditySsm (lpOutput n l s.opa) c ssm →
        (∀ k, l.spool.good = false → l.spool.count.toNat = k → 10 ≤ k → k < 2 ^ 32 - 1 →
          Effect (.lpspool e t true) s
            (lpWrites e (lpOutput n l s.opa) l.pre true (BitVec.ofNat 32 (k + 1)) ++
              pair .outa (lpOutput n l s.opa) ++ [(.outf, BitVec.ofNat 32 ssm), res 0 0x34])) ∧
        (l.spool.good = true →
          Effect (.lpspool e t true) s
            (lpWrites e (lpOutput n l s.opa) l.pre true l.spool.count ++
              pair .outa (lpOutput n l s.opa) ++ [(.outf, BitVec.ofNat 32 ssm), res 0 0x34])))

/-- DFSPOOL (rules R250, R253), in each of its five cases. The stepping cases after a NaN or an infinite sample follow the
pseudocode of rule R247, the model's choice against the words of R247 (d) and R321 (log 14). -/
def Obligations.DifferentiatorSpoolCycle : Prop :=
  ∀ (s : State) (e t : Nat) (d : Diff) (c : LabelConfig), s.locked = true → s.df[e]? = some d → EntryIs s t c →
    Effect (.dfspool e t false) s
      (dfWrites e d.pin d.pout false 0 ++ pair .outa 0 ++ [(.outf, 0), res 0 0x3C]) ∧
    (d.spool.good = false → d.spool.count = 0 →
      Effect (.dfspool e t true) s (dfWrites e s.opa 0 false 1 ++ pair .outa 0 ++ [(.outf, 0), res 0 0x3C])) ∧
    ∃ n, AllNaN n ∧ ∀ y, DfOutput n d s.opa y →
      (∀ k, d.spool.good = false → d.spool.count.toNat = k → 1 ≤ k → k ≤ 9 →
        Effect (.dfspool e t true) s
          (dfWrites e s.opa y false (BitVec.ofNat 32 (k + 1)) ++ pair .outa y ++ [(.outf, 0), res 0 0x3C])) ∧
      (∀ ssm, ValiditySsm y c ssm →
        (∀ k, d.spool.good = false → d.spool.count.toNat = k → 10 ≤ k → k < 2 ^ 32 - 1 →
          Effect (.dfspool e t true) s
            (dfWrites e s.opa y true (BitVec.ofNat 32 (k + 1)) ++ pair .outa y ++
              [(.outf, BitVec.ofNat 32 ssm), res 0 0x3C])) ∧
        (d.spool.good = true →
          Effect (.dfspool e t true) s
            (dfWrites e s.opa y true d.spool.count ++ pair .outa y ++
              [(.outf, BitVec.ofNat 32 ssm), res 0 0x3C])))

/-- Spool timing (rule R251, laws 1 and 3), for both engines and any samples: from count 0, valid cycles 1 to 10 report
Failure Warning, the first with output +0.0; cycle 11 makes the engine good, and from then on the SSM is that of the
validity check and the count stays 11. -/
def Obligations.ElevenValidCyclesMakeAnEngineGood : Prop :=
  (∀ (s : State) (e t : Nat) (l : LowPass) (c : LabelConfig) (x : Nat → Flt) (k : Nat),
    s.locked = true → s.lp[e]? = some l → EntryIs s t c → l.spool = ⟨false, 0⟩ → 0 < k →
    ∃ u l', repeatWith (.lpspool e t true) x k s = some u ∧ u.lp[e]? = some l' ∧
      l'.spool.count.toNat = min k 11 ∧ (l'.spool.good = true ↔ 11 ≤ k) ∧ (k = 1 → u.outa = 0) ∧
      (k ≤ 10 → u.outf = 0) ∧ (11 ≤ k → ∀ ssm, ValiditySsm u.outa c ssm → u.outf = BitVec.ofNat 32 ssm)) ∧
  (∀ (s : State) (e t : Nat) (d : Diff) (c : LabelConfig) (x : Nat → Flt) (k : Nat),
    s.locked = true → s.df[e]? = some d → EntryIs s t c → d.spool = ⟨false, 0⟩ → 0 < k →
    ∃ u d', repeatWith (.dfspool e t true) x k s = some u ∧ u.df[e]? = some d' ∧
      d'.spool.count.toNat = min k 11 ∧ (d'.spool.good = true ↔ 11 ≤ k) ∧ (k = 1 → u.outa = 0) ∧
      (k ≤ 10 → u.outf = 0) ∧ (11 ≤ k → ∀ ssm, ValiditySsm u.outa c ssm → u.outf = BitVec.ofNat 32 ssm))

/-- The output of a DFSTEP stays between the limits, if the previous output was between them, for finite samples and a
finite nonzero rate (after rule R255, law 2, whose premise "no sample is NaN" does not exclude the NaN that two equal
infinite samples give). -/
def Obligations.DifferentiatorOutputIsBounded : Prop :=
  ∀ (s : State) (e : Nat) (d : Diff), s.locked = true → s.df[e]? = some d →
    FiniteValue s.opa → FiniteValue d.pin → FiniteValue d.fs → value d.fs ≠ 0 →
    Flt.isNaN d.ll = false → Flt.isNaN d.ul = false → Flt.isNaN d.pout = false →
    Flt.lt d.ul d.ll = false → Flt.lt d.pout d.ll = false → Flt.lt d.ul d.pout = false →
    ∃ t, exec (.dfstep e) s = .next t ∧ Flt.isNaN t.outa = false ∧ Flt.lt t.outa d.ll = false ∧
      Flt.lt d.ul t.outa = false

/-! ### Invariants -/

/-- The invariant holds right after reset (rules R8, R301). -/
def Obligations.ResetSatisfiesTheInvariant : Prop := Inv State.reset

/-- Every step keeps the invariant: RUN mode has a validated configuration, spool counts stay in 0..11, reserved bits
read 0 and code 6 is never written, a DRAIN stays within its bounds, nothing dynamic moves in CONFIG mode (rules R8,
R133, R205, R270, R272, R283). -/
def Obligations.EveryStepKeepsTheInvariant : Prop :=
  ∀ s t : State, Inv s → step s = .next t → Inv t
end

