-- ==== Sys2Proof/Laws/Codec.lean ====
section
/-! SUPPORT. What the codec functions can answer (rules R150-R158). -/

namespace Sys2Proof.Machine

/-- What `decode_bcd` can answer (rule R151). -/
theorem decodeBcd_cases (nan : Flt) (c : LabelConfig) (w : Word) :
    decodeBcd nan c w = .error .invalidMessage ∨ ∃ r, decodeBcd nan c w = .ok r := by
  unfold decodeBcd
  by_cases h1 : (decide (c.nsig.toNat < 1) || decide (c.nsig.toNat > 5) ||
    decide (4 * c.nsig.toNat - 1 + c.ndisc.toNat > 19)) = true
  · left; simp only [h1, if_true]
  · by_cases h2 : ((List.range c.nsig.toNat).map (bcdDigit c.nsig.toNat w)).any (· > 9) = true
    · left; simp only [if_neg h1, if_pos h2]
    · right; simp only [if_neg h1, if_neg h2]; exact ⟨_, rfl⟩

/-- The codes a decoder fails with: InvalidMessage for BCD, Error for the type LOCK refuses (rules R151, R153). -/
theorem decodeWord_error (nan : Flt) (c : LabelConfig) (w : Word) (code : ResultCode)
    (h : decodeWord nan c w = .error code) :
    (c.msgType = .bcd ∧ code = .invalidMessage) ∨ (c.msgType = .reserved ∧ code = .error) := by
  unfold decodeWord at h
  cases ht : c.msgType <;> rw [ht] at h <;> simp only [reduceCtorEq, Except.error.injEq] at h
  · rcases decodeBcd_cases nan c w with h' | ⟨r, h'⟩ <;> rw [h'] at h <;>
      simp only [reduceCtorEq, Except.error.injEq] at h
    exact .inl ⟨rfl, h.symm⟩
  · exact .inr ⟨rfl, h.symm⟩

/-- The codes an encoder fails with: InvalidMsgData for BNR and BCD, Error for the type LOCK refuses (rules R154, R155,
R157). -/
theorem encodeWord_error (nan : Flt) (c : LabelConfig) (x : Flt) (disc : Word) (ssm sdi : BitVec 2) (code : ResultCode)
    (h : encodeWord nan c x disc ssm sdi = .error code) :
    ((c.msgType = .bnr ∨ c.msgType = .bcd) ∧ code = .invalidMsgData) ∨ (c.msgType = .reserved ∧ code = .error) := by
  unfold encodeWord encodeBnr encodeBcd at h
  cases ht : c.msgType <;> rw [ht] at h <;> simp only [reduceCtorEq, Except.error.injEq] at h
  · split at h <;> simp only [reduceCtorEq, Except.error.injEq] at h
    exact .inl ⟨.inl rfl, h.symm⟩
  · split at h <;> simp only [reduceCtorEq, Except.error.injEq] at h
    exact .inl ⟨.inr rfl, h.symm⟩
  · exact .inr ⟨rfl, h.symm⟩

/-- The two answers of the validity check (rule R158). -/
theorem checkBnrValidity_cases (x : Flt) (c : LabelConfig) :
    ((Flt.isNaN x = true ∨ (c.minvEn = true ∧ Flt.lt x c.minv = true) ∨ (c.maxvEn = true ∧ Flt.lt c.maxv x = true)) ∧
      checkBnrValidity x c = bnrFW) ∨
    (¬ (Flt.isNaN x = true ∨ (c.minvEn = true ∧ Flt.lt x c.minv = true) ∨
        (c.maxvEn = true ∧ Flt.lt c.maxv x = true)) ∧
      checkBnrValidity x c = bnrNO) := by
  unfold checkBnrValidity
  cases Flt.isNaN x <;> cases c.minvEn <;> cases Flt.lt x c.minv <;> cases c.maxvEn <;> cases Flt.lt c.maxv x <;> simp

end Sys2Proof.Machine
end

