-- ==== Sys2Proof/Laws/Control.lean ====
section
/-! SUPPORT. The searches of LOCK find the first failure (rule R131). -/

namespace Sys2Proof.Machine

/-- A search over the indices 0 to n−1 answers with the least index that has an answer. -/
theorem findSome_finRange {β : Type} (n : Nat) (f : Fin n → Option β) (b : β) :
    (List.finRange n).findSome? f = some b ↔ ∃ j, f j = some b ∧ ∀ i, i < j → f i = none := by
  rw [List.findSome?_eq_some_iff]
  constructor
  · rintro ⟨l1, j, l2, hl, hj, hn⟩
    refine ⟨j, hj, fun i hi => hn i ?_⟩
    have hs : (List.finRange n).Pairwise (· < ·) := List.pairwise_lt_finRange n
    have hm : i ∈ l1 ++ j :: l2 := by rw [← hl]; exact List.mem_finRange i
    rw [hl, List.pairwise_append] at hs
    rw [List.mem_append, List.mem_cons] at hm
    rcases hm with hm | rfl | hm
    · exact hm
    · exact absurd hi (lt_irrefl _)
    · exact absurd hi (not_lt.mpr (le_of_lt ((List.pairwise_cons.mp hs.2.1).1 i hm)))
  · rintro ⟨j, hj, hn⟩
    obtain ⟨l1, l2, hl⟩ := List.append_of_mem (List.mem_finRange j)
    refine ⟨l1, j, l2, hl, hj, fun i hi => hn i ?_⟩
    have hs : (List.finRange n).Pairwise (· < ·) := List.pairwise_lt_finRange n
    rw [hl, List.pairwise_append] at hs
    exact hs.2.2 i hi j (List.mem_cons_self ..)

/-- A search over a list with its positions answers with the least position that has an answer. -/
theorem findSome_zipIdx {α β : Type} (l : List α) (f : Nat → α → Option β) (b : β) :
    l.zipIdx.findSome? (fun p => f p.2 p.1) = some b ↔
      ∃ g x, l[g]? = some x ∧ f g x = some b ∧ ∀ g' x', g' < g → l[g']? = some x' → f g' x' = none := by
  suffices h : ∀ k, (l.zipIdx k).findSome? (fun p => f p.2 p.1) = some b ↔
      ∃ g x, l[g]? = some x ∧ f (k + g) x = some b ∧
        ∀ g' x', g' < g → l[g']? = some x' → f (k + g') x' = none by
    simpa using h 0
  induction l with
  | nil => intro k; simp
  | cons y l ih =>
    intro k
    rw [List.zipIdx_cons, List.findSome?_cons]
    cases hy : f k y with
    | some c =>
      constructor
      · intro h
        refine ⟨0, y, rfl, by simpa [hy] using h, fun g' x' hg => absurd hg (Nat.not_lt_zero _)⟩
      · rintro ⟨g, x, hg, hb, hn⟩
        rcases g with _ | g
        · simp only [List.getElem?_cons_zero, Option.some.injEq] at hg
          subst hg
          simpa [hy] using hb
        · have := hn 0 y (Nat.succ_pos g) rfl
          simp [hy] at this
    | none =>
      simp only
      rw [ih]
      constructor
      · rintro ⟨g, x, hg, hb, hn⟩
        refine ⟨g + 1, x, by simpa using hg, by rw [← hb]; congr 1; omega, fun g' x' hg' hx' => ?_⟩
        rcases g' with _ | g'
        · simp only [List.getElem?_cons_zero, Option.some.injEq] at hx'
          subst hx'
          simpa using hy
        · rw [← hn g' x' (by omega) (by simpa using hx')]; congr 1; omega
      · rintro ⟨g, x, hg, hb, hn⟩
        rcases g with _ | g
        · simp only [List.getElem?_cons_zero, Option.some.injEq] at hg
          subst hg
          simp [hy] at hb
        · refine ⟨g, x, by simpa using hg, by rw [← hb]; congr 1; omega, fun g' x' hg' hx' => ?_⟩
          rw [← hn (g' + 1) x' (by omega) (by simpa using hx')]; congr 1; omega

end Sys2Proof.Machine
end

