-- ==== Sys2Proof/Laws/Encoding.lean ====
section
/-! SUPPORT. The command word and its fields are the same information; so are a word and its four bytes. -/

namespace Sys2Proof

/-- Packing the fields loses nothing (rule R106). -/
@[simp] theorem cmdFields_cmdWord (f : CmdFields) : cmdFields (cmdWord f) = f := by
  obtain ⟨opc, idx, sel, ssm, sdi, v, rsv⟩ := f
  simp only [cmdFields, cmdWord, CmdFields.mk.injEq]
  refine ⟨?_, ?_, ?_, ?_, ?_, ?_, ?_⟩ <;>
  · apply BitVec.eq_of_getLsbD_eq
    intro i hi
    rw [BitVec.getLsbD_extractLsb']
    simp only [BitVec.getLsbD_append]
    (repeat' split) <;> first | omega | (simp only [hi, decide_true, Bool.true_and]; congr 1; omega)

/-- The fields cover every bit of the word (rule R106). -/
@[simp] theorem cmdWord_cmdFields (c : Word) : cmdWord (cmdFields c) = c := by
  simp only [cmdFields, cmdWord]
  apply BitVec.eq_of_getLsbD_eq
  intro i hi
  simp only [BitVec.getLsbD_append, BitVec.getLsbD_extractLsb']
  (repeat' split) <;> (rw [decide_eq_true (by omega), Bool.true_and]; congr 1; omega)

/-- Two words are equal exactly when their fields are. -/
theorem cmdWord_inj (f f' : CmdFields) : cmdWord f = cmdWord f' ↔ f = f' :=
  ⟨fun h => by rw [← cmdFields_cmdWord f, h, cmdFields_cmdWord], fun h => h ▸ rfl⟩

/-- Bitwise and of two words is that of their fields: how a mask of rule R109 acts on a word. -/
theorem cmdWord_and (a b : CmdFields) :
    cmdWord a &&& cmdWord b =
      cmdWord ⟨a.opc &&& b.opc, a.idx &&& b.idx, a.sel &&& b.sel, a.ssm &&& b.ssm, a.sdi &&& b.sdi, a.v &&& b.v,
        a.rsv &&& b.rsv⟩ := by
  apply BitVec.eq_of_getLsbD_eq
  intro i hi
  simp only [cmdWord, BitVec.getLsbD_and, BitVec.getLsbD_append]
  (repeat' split) <;> rfl

/-- The byte lanes of a word make the word again (rule R74). -/
theorem wordOfBytes_bytesOfWord (w : Word) :
    wordOfBytes (w.extractLsb' 0 8) (w.extractLsb' 8 8) (w.extractLsb' 16 8) (w.extractLsb' 24 8) = w := by
  simp only [wordOfBytes]
  apply BitVec.eq_of_getLsbD_eq
  intro i hi
  simp only [BitVec.getLsbD_append, BitVec.getLsbD_extractLsb']
  (repeat' split) <;> (rw [decide_eq_true (by omega), Bool.true_and]; congr 1; omega)

end Sys2Proof
end

