-- ==== Sys2Proof/Laws/Operands.lean ====
section
/-! SUPPORT. What the common frame and each index operand can do (rules R272-R274). -/

namespace Sys2Proof.Machine

variable (i : Instr) (s : State)

/-- In CONFIG mode a framed command ends NotLocked. -/
theorem ifLocked_config (body : State) (h : s.locked = false) : ifLocked i s body = s.finish .notLocked i.opc := by
  simp [ifLocked, h]

/-- In RUN mode a framed command runs its body. -/
theorem ifLocked_run (body : State) (h : s.locked = true) : ifLocked i s body = body := by
  simp [ifLocked, h]

theorem withGroup_run (g : Nat) (G : Group) (body : Group → State) (h : s.locked = true) (hg : s.groups[g]? = some G) :
    withGroup i g s body = body G := by
  simp [withGroup, ifLocked, withIndex, h, hg]

theorem withLp_run (e : Nat) (l : LowPass) (body : LowPass → State) (h : s.locked = true) (he : s.lp[e]? = some l) :
    withLp i e s body = body l := by
  simp [withLp, ifLocked, withIndex, h, he]

theorem withDf_run (e : Nat) (d : Diff) (body : Diff → State) (h : s.locked = true) (he : s.df[e]? = some d) :
    withDf i e s body = body d := by
  simp [withDf, ifLocked, withIndex, h, he]

theorem withEntry_run (t : Nat) (c : LabelConfig) (body : LabelConfig → State) (h : s.locked = true)
    (ht : s.entry t = some c) : withEntry i t s body = body c := by
  simp [withEntry, ifLocked, h, ht]

/-- Entry t is found exactly when the index is in the table and the entry there is enabled (rule R273). -/
theorem entry_eq_some (t : Nat) (c : LabelConfig) :
    s.entry t = some c ↔ ∃ h : t < Config.tableSize, s.ct[t] = c ∧ c.en = true := by
  unfold State.entry
  by_cases h : t < Config.tableSize
  · have hh : s.ct[t]? = some s.ct[t] := by simp [h]
    rw [hh]
    constructor
    · intro h'
      simp only at h'
      split at h'
      · simp only [Option.some.injEq] at h'; subst h'; exact ⟨h, rfl, by assumption⟩
      · cases h'
    · rintro ⟨_, rfl, h3⟩; simp only [h3, if_true]
  · have hh : s.ct[t]? = none := by simpa using h
    rw [hh]; simp [h]

/-- What a command with a group operand can do: NotLocked, InvalidArgument, or its body on the group. -/
theorem withGroup_elim {P : State → Prop} (g : Nat) (body : Group → State)
    (h1 : s.locked = false → P (s.finish .notLocked i.opc))
    (h2 : s.locked = true → s.groups[g]? = none → P (s.finish .invalidArgument i.opc))
    (h3 : ∀ G, s.locked = true → s.groups[g]? = some G → P (body G)) : P (withGroup i g s body) := by
  unfold withGroup ifLocked withIndex
  cases hl : s.locked
  · simpa using h1 hl
  · cases hg : s.groups[g]?
    · simpa using h2 hl hg
    · simpa using h3 _ hl hg

/-- What a command with a low-pass engine operand can do. -/
theorem withLp_elim {P : State → Prop} (e : Nat) (body : LowPass → State)
    (h1 : s.locked = false → P (s.finish .notLocked i.opc))
    (h2 : s.locked = true → s.lp[e]? = none → P (s.finish .invalidArgument i.opc))
    (h3 : ∀ l, s.locked = true → s.lp[e]? = some l → P (body l)) : P (withLp i e s body) := by
  unfold withLp ifLocked withIndex
  cases hl : s.locked
  · simpa using h1 hl
  · cases hg : s.lp[e]?
    · simpa using h2 hl hg
    · simpa using h3 _ hl hg

/-- What a command with a differentiator engine operand can do. -/
theorem withDf_elim {P : State → Prop} (e : Nat) (body : Diff → State)
    (h1 : s.locked = false → P (s.finish .notLocked i.opc))
    (h2 : s.locked = true → s.df[e]? = none → P (s.finish .invalidArgument i.opc))
    (h3 : ∀ d, s.locked = true → s.df[e]? = some d → P (body d)) : P (withDf i e s body) := by
  unfold withDf ifLocked withIndex
  cases hl : s.locked
  · simpa using h1 hl
  · cases hg : s.df[e]?
    · simpa using h2 hl hg
    · simpa using h3 _ hl hg

/-- What a command with a table-entry operand can do. -/
theorem withEntry_elim {P : State → Prop} (t : Nat) (body : LabelConfig → State)
    (h1 : s.locked = false → P (s.finish .notLocked i.opc))
    (h2 : s.locked = true → s.entry t = none → P (s.finish .invalidArgument i.opc))
    (h3 : ∀ c, s.locked = true → s.entry t = some c → P (body c)) : P (withEntry i t s body) := by
  unfold withEntry ifLocked
  cases hl : s.locked
  · simpa using h1 hl
  · cases hg : s.entry t
    · simpa using h2 hl hg
    · simpa using h3 _ hl hg

end Sys2Proof.Machine
end

