-- ==== Sys2Proof/Laws/Receive.lean ====
section
/-! SUPPORT. What a lookup finds, and what processing a word and one iteration of DRAIN can do (rules R190, R191, R205). -/

namespace Sys2Proof.Machine

/-- A lookup finds the least active entry with the label (rule R190). -/
theorem lookup_eq_some (G : Group) (label : BitVec 8) (j : Fin Config.tableSize) :
    G.lookup label = some j ↔
      j.val < G.num.toNat ∧ G.entries[j].label = label ∧
        ∀ i : Fin Config.tableSize, i < j → G.entries[i].label ≠ label := by
  unfold Group.lookup
  rw [List.find?_eq_some_iff_getElem]
  constructor
  · rintro ⟨hp, k, hk, hkj, hmin⟩
    simp only [Bool.and_eq_true, decide_eq_true_eq, beq_iff_eq] at hp
    refine ⟨hp.1, hp.2, fun i hi hl => ?_⟩
    have hkv : k = j.val := by rw [← hkj]; simp
    have hi' := Fin.lt_def.mp hi
    have := hmin i.val (by omega)
    have hg := Nat.lt_trans hi' hp.1
    simp only [List.getElem_finRange, Fin.cast_mk, Fin.eta, Bool.not_eq_true', Bool.and_eq_false_iff,
      decide_eq_false_iff_not, beq_eq_false_iff_ne] at this
    exact this.elim (fun h => h hg) (fun h => h hl)
  · rintro ⟨h1, h2, h3⟩
    refine ⟨by rw [h2, decide_eq_true h1]; simp, j.val, by simp, by simp, fun k hk => ?_⟩
    have := h3 ⟨k, by omega⟩ (Fin.lt_def.mpr hk)
    simp only [List.getElem_finRange, Fin.cast_mk, Bool.not_eq_true', Bool.and_eq_false_iff,
      decide_eq_false_iff_not, beq_eq_false_iff_ne]
    exact .inr this

/-- A lookup finds nothing exactly when no active entry has the label (rule R190). -/
theorem lookup_eq_none (G : Group) (label : BitVec 8) :
    G.lookup label = none ↔ ∀ j : Fin Config.tableSize, j.val < G.num.toNat → G.entries[j].label ≠ label := by
  unfold Group.lookup
  rw [List.find?_eq_none]
  simp [List.mem_finRange]

/-- What processing a word can do: it fails and changes nothing, or it writes the slot of its label. -/
theorem processReceived_cases (g : Nat) (G : Group) (w : Word) (s : State) :
    (G.lookup (wordLabel w) = none ∧ processReceived g G w s = (.noMatchingLabel, s)) ∨
    (∃ j code, G.lookup (wordLabel w) = some j ∧ decodeWord (s.nan 0) G.entries[j] w = .error code ∧
      processReceived g G w s = (code, s)) ∨
    ∃ j r, G.lookup (wordLabel w) = some j ∧ decodeWord (s.nan 0) G.entries[j] w = .ok r ∧
      processReceived g G w s = (.success, (s.setGroup g (G.receive j w s.clock r)).draw 1) := by
  unfold processReceived
  cases h : G.lookup (wordLabel w) with
  | none => simp
  | some j =>
    right
    cases h' : decodeWord (s.nan 0) G.entries[j] w with
    | error code => exact .inl ⟨j, code, rfl, h', by simp only [h']⟩
    | ok r => exact .inr ⟨j, r, rfl, h', by simp only [h']⟩

/-- What handling a word taken from a port can do: nothing, or a good receipt. -/
theorem drainWord_cases (g : Nat) (w : Word) (s : State) :
    drainWord g w s = (false, s) ∨
    ∃ G j r, s.groups[g]? = some G ∧ w.getLsbD 31 = false ∧ G.lookup (wordLabel w) = some j ∧
      decodeWord (s.nan 0) G.entries[j] w = .ok r ∧
      drainWord g w s = (true, (s.setGroup g (G.receive j w s.clock r)).draw 1) := by
  unfold drainWord
  cases hw : w.getLsbD 31 with
  | true => simp
  | false =>
    cases hg : s.groups[g]? with
    | none => simp
    | some G =>
      rcases processReceived_cases g G w s with ⟨-, h⟩ | ⟨j, code, hj, hd, h⟩ | ⟨j, r, hj, hd, h⟩
      · left; simp only [h]; rfl
      · by_cases hc : code = .success
        · rcases decodeWord_error _ _ _ _ hd with ⟨-, h'⟩ | ⟨-, h'⟩ <;> rw [h'] at hc <;> cases hc
        · left; simp only [h]; simp [hc]
      · right; exact ⟨G, j, r, rfl, rfl, hj, hd, by simp only [h]; rfl⟩

/-- What one iteration of DRAIN can do: it ends at once, it ends after a word, or it goes on after a word. -/
theorem drainIter_cases (d : DrainProgress) (s : State) :
    (s.rxReady d.grp = false ∧ drainIter d s = s.drainDone d) ∨
    ∃ p : Bool × State, s.rxReady d.grp = true ∧
      p = drainWord d.grp (s.rxHead d.grp) (s.rxDrop d.grp) ∧
      ((Config.drainMax ≤ d.nread + 1 ∧
          drainIter d s = p.2.drainDone ⟨d.grp, d.nread + 1, if p.1 then d.nok + 1 else d.nok⟩) ∨
        (d.nread + 1 < Config.drainMax ∧
          drainIter d s =
            { p.2 with drain := some ⟨d.grp, d.nread + 1, if p.1 then d.nok + 1 else d.nok⟩ })) := by
  unfold drainIter
  cases h : s.rxReady d.grp with
  | false => simp
  | true =>
    right
    refine ⟨_, rfl, rfl, ?_⟩
    by_cases hn : d.nread + 1 < Config.drainMax
    · right; exact ⟨hn, by simp [hn]⟩
    · left; exact ⟨by omega, by simp [hn]⟩

end Sys2Proof.Machine
end

