-- ==== Sys2Proof/Laws/State.lean ====
section
/-! SUPPORT. What each named update of the state does to each field. -/

namespace Sys2Proof.Machine

variable (s : State)

@[simp] theorem State.finish_locked (c : ResultCode) (o : BitVec 8) : (s.finish c o).locked = s.locked := rfl
@[simp] theorem State.finish_cfgErr (c : ResultCode) (o : BitVec 8) : (s.finish c o).cfgErr = s.cfgErr := rfl
@[simp] theorem State.finish_cmdErr (c : ResultCode) (o : BitVec 8) : (s.finish c o).cmdErr = s.cmdErr := rfl
@[simp] theorem State.finish_result (c : ResultCode) (o : BitVec 8) : (s.finish c o).result = resultWord c o := rfl
@[simp] theorem State.finish_errinfo (c : ResultCode) (o : BitVec 8) : (s.finish c o).errinfo = s.errinfo := rfl
@[simp] theorem State.finish_opw (c : ResultCode) (o : BitVec 8) : (s.finish c o).opw = s.opw := rfl
@[simp] theorem State.finish_opd (c : ResultCode) (o : BitVec 8) : (s.finish c o).opd = s.opd := rfl
@[simp] theorem State.finish_opa (c : ResultCode) (o : BitVec 8) : (s.finish c o).opa = s.opa := rfl
@[simp] theorem State.finish_outw (c : ResultCode) (o : BitVec 8) : (s.finish c o).outw = s.outw := rfl
@[simp] theorem State.finish_outd (c : ResultCode) (o : BitVec 8) : (s.finish c o).outd = s.outd := rfl
@[simp] theorem State.finish_outa (c : ResultCode) (o : BitVec 8) : (s.finish c o).outa = s.outa := rfl
@[simp] theorem State.finish_outi (c : ResultCode) (o : BitVec 8) : (s.finish c o).outi = s.outi := rfl
@[simp] theorem State.finish_outf (c : ResultCode) (o : BitVec 8) : (s.finish c o).outf = s.outf := rfl
@[simp] theorem State.finish_outt (c : ResultCode) (o : BitVec 8) : (s.finish c o).outt = s.outt := rfl
@[simp] theorem State.finish_ct (c : ResultCode) (o : BitVec 8) : (s.finish c o).ct = s.ct := rfl
@[simp] theorem State.finish_groups (c : ResultCode) (o : BitVec 8) : (s.finish c o).groups = s.groups := rfl
@[simp] theorem State.finish_lp (c : ResultCode) (o : BitVec 8) : (s.finish c o).lp = s.lp := rfl
@[simp] theorem State.finish_df (c : ResultCode) (o : BitVec 8) : (s.finish c o).df = s.df := rfl
@[simp] theorem State.finish_drain (c : ResultCode) (o : BitVec 8) : (s.finish c o).drain = s.drain := rfl
@[simp] theorem State.finish_env (c : ResultCode) (o : BitVec 8) : (s.finish c o).env = s.env := rfl
@[simp] theorem State.finish_agenda (c : ResultCode) (o : BitVec 8) : (s.finish c o).agenda = s.agenda := rfl
@[simp] theorem State.finish_resp (c : ResultCode) (o : BitVec 8) : (s.finish c o).resp = s.resp := rfl
@[simp] theorem State.finish_free (c : ResultCode) (o : BitVec 8) : (s.finish c o).free = s.free := rfl

@[simp] theorem State.illegalCommand_locked (c : Word) : (s.illegalCommand c).locked = s.locked := rfl
@[simp] theorem State.illegalCommand_cfgErr (c : Word) : (s.illegalCommand c).cfgErr = s.cfgErr := rfl
@[simp] theorem State.illegalCommand_cmdErr (c : Word) : (s.illegalCommand c).cmdErr = true := rfl
@[simp] theorem State.illegalCommand_result (c : Word) :
    (s.illegalCommand c).result = resultWord .illegalCommand (c.extractLsb' 0 8) := rfl
@[simp] theorem State.illegalCommand_errinfo (c : Word) : (s.illegalCommand c).errinfo = s.errinfo := rfl
@[simp] theorem State.illegalCommand_opw (c : Word) : (s.illegalCommand c).opw = s.opw := rfl
@[simp] theorem State.illegalCommand_opd (c : Word) : (s.illegalCommand c).opd = s.opd := rfl
@[simp] theorem State.illegalCommand_opa (c : Word) : (s.illegalCommand c).opa = s.opa := rfl
@[simp] theorem State.illegalCommand_outw (c : Word) : (s.illegalCommand c).outw = s.outw := rfl
@[simp] theorem State.illegalCommand_outd (c : Word) : (s.illegalCommand c).outd = s.outd := rfl
@[simp] theorem State.illegalCommand_outa (c : Word) : (s.illegalCommand c).outa = s.outa := rfl
@[simp] theorem State.illegalCommand_outi (c : Word) : (s.illegalCommand c).outi = s.outi := rfl
@[simp] theorem State.illegalCommand_outf (c : Word) : (s.illegalCommand c).outf = s.outf := rfl
@[simp] theorem State.illegalCommand_outt (c : Word) : (s.illegalCommand c).outt = s.outt := rfl
@[simp] theorem State.illegalCommand_ct (c : Word) : (s.illegalCommand c).ct = s.ct := rfl
@[simp] theorem State.illegalCommand_groups (c : Word) : (s.illegalCommand c).groups = s.groups := rfl
@[simp] theorem State.illegalCommand_lp (c : Word) : (s.illegalCommand c).lp = s.lp := rfl
@[simp] theorem State.illegalCommand_df (c : Word) : (s.illegalCommand c).df = s.df := rfl
@[simp] theorem State.illegalCommand_drain (c : Word) : (s.illegalCommand c).drain = s.drain := rfl
@[simp] theorem State.illegalCommand_env (c : Word) : (s.illegalCommand c).env = s.env := rfl
@[simp] theorem State.illegalCommand_agenda (c : Word) : (s.illegalCommand c).agenda = s.agenda := rfl
@[simp] theorem State.illegalCommand_resp (c : Word) : (s.illegalCommand c).resp = s.resp := rfl
@[simp] theorem State.illegalCommand_free (c : Word) : (s.illegalCommand c).free = s.free := rfl

@[simp] theorem State.setGroup_locked (g : Nat) (G : Group) : (s.setGroup g G).locked = s.locked := rfl
@[simp] theorem State.setGroup_cfgErr (g : Nat) (G : Group) : (s.setGroup g G).cfgErr = s.cfgErr := rfl
@[simp] theorem State.setGroup_cmdErr (g : Nat) (G : Group) : (s.setGroup g G).cmdErr = s.cmdErr := rfl
@[simp] theorem State.setGroup_result (g : Nat) (G : Group) : (s.setGroup g G).result = s.result := rfl
@[simp] theorem State.setGroup_errinfo (g : Nat) (G : Group) : (s.setGroup g G).errinfo = s.errinfo := rfl
@[simp] theorem State.setGroup_opw (g : Nat) (G : Group) : (s.setGroup g G).opw = s.opw := rfl
@[simp] theorem State.setGroup_opd (g : Nat) (G : Group) : (s.setGroup g G).opd = s.opd := rfl
@[simp] theorem State.setGroup_opa (g : Nat) (G : Group) : (s.setGroup g G).opa = s.opa := rfl
@[simp] theorem State.setGroup_outw (g : Nat) (G : Group) : (s.setGroup g G).outw = s.outw := rfl
@[simp] theorem State.setGroup_outd (g : Nat) (G : Group) : (s.setGroup g G).outd = s.outd := rfl
@[simp] theorem State.setGroup_outa (g : Nat) (G : Group) : (s.setGroup g G).outa = s.outa := rfl
@[simp] theorem State.setGroup_outi (g : Nat) (G : Group) : (s.setGroup g G).outi = s.outi := rfl
@[simp] theorem State.setGroup_outf (g : Nat) (G : Group) : (s.setGroup g G).outf = s.outf := rfl
@[simp] theorem State.setGroup_outt (g : Nat) (G : Group) : (s.setGroup g G).outt = s.outt := rfl
@[simp] theorem State.setGroup_ct (g : Nat) (G : Group) : (s.setGroup g G).ct = s.ct := rfl
@[simp] theorem State.setGroup_groups (g : Nat) (G : Group) : (s.setGroup g G).groups = s.groups.set g G := rfl
@[simp] theorem State.setGroup_lp (g : Nat) (G : Group) : (s.setGroup g G).lp = s.lp := rfl
@[simp] theorem State.setGroup_df (g : Nat) (G : Group) : (s.setGroup g G).df = s.df := rfl
@[simp] theorem State.setGroup_drain (g : Nat) (G : Group) : (s.setGroup g G).drain = s.drain := rfl
@[simp] theorem State.setGroup_env (g : Nat) (G : Group) : (s.setGroup g G).env = s.env := rfl
@[simp] theorem State.setGroup_agenda (g : Nat) (G : Group) : (s.setGroup g G).agenda = s.agenda := rfl
@[simp] theorem State.setGroup_resp (g : Nat) (G : Group) : (s.setGroup g G).resp = s.resp := rfl
@[simp] theorem State.setGroup_free (g : Nat) (G : Group) : (s.setGroup g G).free = s.free := rfl

@[simp] theorem State.setLp_locked (e : Nat) (l : LowPass) : (s.setLp e l).locked = s.locked := rfl
@[simp] theorem State.setLp_cfgErr (e : Nat) (l : LowPass) : (s.setLp e l).cfgErr = s.cfgErr := rfl
@[simp] theorem State.setLp_cmdErr (e : Nat) (l : LowPass) : (s.setLp e l).cmdErr = s.cmdErr := rfl
@[simp] theorem State.setLp_result (e : Nat) (l : LowPass) : (s.setLp e l).result = s.result := rfl
@[simp] theorem State.setLp_errinfo (e : Nat) (l : LowPass) : (s.setLp e l).errinfo = s.errinfo := rfl
@[simp] theorem State.setLp_opw (e : Nat) (l : LowPass) : (s.setLp e l).opw = s.opw := rfl
@[simp] theorem State.setLp_opd (e : Nat) (l : LowPass) : (s.setLp e l).opd = s.opd := rfl
@[simp] theorem State.setLp_opa (e : Nat) (l : LowPass) : (s.setLp e l).opa = s.opa := rfl
@[simp] theorem State.setLp_outw (e : Nat) (l : LowPass) : (s.setLp e l).outw = s.outw := rfl
@[simp] theorem State.setLp_outd (e : Nat) (l : LowPass) : (s.setLp e l).outd = s.outd := rfl
@[simp] theorem State.setLp_outa (e : Nat) (l : LowPass) : (s.setLp e l).outa = s.outa := rfl
@[simp] theorem State.setLp_outi (e : Nat) (l : LowPass) : (s.setLp e l).outi = s.outi := rfl
@[simp] theorem State.setLp_outf (e : Nat) (l : LowPass) : (s.setLp e l).outf = s.outf := rfl
@[simp] theorem State.setLp_outt (e : Nat) (l : LowPass) : (s.setLp e l).outt = s.outt := rfl
@[simp] theorem State.setLp_ct (e : Nat) (l : LowPass) : (s.setLp e l).ct = s.ct := rfl
@[simp] theorem State.setLp_groups (e : Nat) (l : LowPass) : (s.setLp e l).groups = s.groups := rfl
@[simp] theorem State.setLp_lp (e : Nat) (l : LowPass) : (s.setLp e l).lp = s.lp.set e l := rfl
@[simp] theorem State.setLp_df (e : Nat) (l : LowPass) : (s.setLp e l).df = s.df := rfl
@[simp] theorem State.setLp_drain (e : Nat) (l : LowPass) : (s.setLp e l).drain = s.drain := rfl
@[simp] theorem State.setLp_env (e : Nat) (l : LowPass) : (s.setLp e l).env = s.env := rfl
@[simp] theorem State.setLp_agenda (e : Nat) (l : LowPass) : (s.setLp e l).agenda = s.agenda := rfl
@[simp] theorem State.setLp_resp (e : Nat) (l : LowPass) : (s.setLp e l).resp = s.resp := rfl
@[simp] theorem State.setLp_free (e : Nat) (l : LowPass) : (s.setLp e l).free = s.free := rfl

@[simp] theorem State.setDf_locked (e : Nat) (d : Diff) : (s.setDf e d).locked = s.locked := rfl
@[simp] theorem State.setDf_cfgErr (e : Nat) (d : Diff) : (s.setDf e d).cfgErr = s.cfgErr := rfl
@[simp] theorem State.setDf_cmdErr (e : Nat) (d : Diff) : (s.setDf e d).cmdErr = s.cmdErr := rfl
@[simp] theorem State.setDf_result (e : Nat) (d : Diff) : (s.setDf e d).result = s.result := rfl
@[simp] theorem State.setDf_errinfo (e : Nat) (d : Diff) : (s.setDf e d).errinfo = s.errinfo := rfl
@[simp] theorem State.setDf_opw (e : Nat) (d : Diff) : (s.setDf e d).opw = s.opw := rfl
@[simp] theorem State.setDf_opd (e : Nat) (d : Diff) : (s.setDf e d).opd = s.opd := rfl
@[simp] theorem State.setDf_opa (e : Nat) (d : Diff) : (s.setDf e d).opa = s.opa := rfl
@[simp] theorem State.setDf_outw (e : Nat) (d : Diff) : (s.setDf e d).outw = s.outw := rfl
@[simp] theorem State.setDf_outd (e : Nat) (d : Diff) : (s.setDf e d).outd = s.outd := rfl
@[simp] theorem State.setDf_outa (e : Nat) (d : Diff) : (s.setDf e d).outa = s.outa := rfl
@[simp] theorem State.setDf_outi (e : Nat) (d : Diff) : (s.setDf e d).outi = s.outi := rfl
@[simp] theorem State.setDf_outf (e : Nat) (d : Diff) : (s.setDf e d).outf = s.outf := rfl
@[simp] theorem State.setDf_outt (e : Nat) (d : Diff) : (s.setDf e d).outt = s.outt := rfl
@[simp] theorem State.setDf_ct (e : Nat) (d : Diff) : (s.setDf e d).ct = s.ct := rfl
@[simp] theorem State.setDf_groups (e : Nat) (d : Diff) : (s.setDf e d).groups = s.groups := rfl
@[simp] theorem State.setDf_lp (e : Nat) (d : Diff) : (s.setDf e d).lp = s.lp := rfl
@[simp] theorem State.setDf_df (e : Nat) (d : Diff) : (s.setDf e d).df = s.df.set e d := rfl
@[simp] theorem State.setDf_drain (e : Nat) (d : Diff) : (s.setDf e d).drain = s.drain := rfl
@[simp] theorem State.setDf_env (e : Nat) (d : Diff) : (s.setDf e d).env = s.env := rfl
@[simp] theorem State.setDf_agenda (e : Nat) (d : Diff) : (s.setDf e d).agenda = s.agenda := rfl
@[simp] theorem State.setDf_resp (e : Nat) (d : Diff) : (s.setDf e d).resp = s.resp := rfl
@[simp] theorem State.setDf_free (e : Nat) (d : Diff) : (s.setDf e d).free = s.free := rfl

@[simp] theorem State.draw_locked (k : Nat) : (s.draw k).locked = s.locked := rfl
@[simp] theorem State.draw_cfgErr (k : Nat) : (s.draw k).cfgErr = s.cfgErr := rfl
@[simp] theorem State.draw_cmdErr (k : Nat) : (s.draw k).cmdErr = s.cmdErr := rfl
@[simp] theorem State.draw_result (k : Nat) : (s.draw k).result = s.result := rfl
@[simp] theorem State.draw_errinfo (k : Nat) : (s.draw k).errinfo = s.errinfo := rfl
@[simp] theorem State.draw_opw (k : Nat) : (s.draw k).opw = s.opw := rfl
@[simp] theorem State.draw_opd (k : Nat) : (s.draw k).opd = s.opd := rfl
@[simp] theorem State.draw_opa (k : Nat) : (s.draw k).opa = s.opa := rfl
@[simp] theorem State.draw_outw (k : Nat) : (s.draw k).outw = s.outw := rfl
@[simp] theorem State.draw_outd (k : Nat) : (s.draw k).outd = s.outd := rfl
@[simp] theorem State.draw_outa (k : Nat) : (s.draw k).outa = s.outa := rfl
@[simp] theorem State.draw_outi (k : Nat) : (s.draw k).outi = s.outi := rfl
@[simp] theorem State.draw_outf (k : Nat) : (s.draw k).outf = s.outf := rfl
@[simp] theorem State.draw_outt (k : Nat) : (s.draw k).outt = s.outt := rfl
@[simp] theorem State.draw_ct (k : Nat) : (s.draw k).ct = s.ct := rfl
@[simp] theorem State.draw_groups (k : Nat) : (s.draw k).groups = s.groups := rfl
@[simp] theorem State.draw_lp (k : Nat) : (s.draw k).lp = s.lp := rfl
@[simp] theorem State.draw_df (k : Nat) : (s.draw k).df = s.df := rfl
@[simp] theorem State.draw_drain (k : Nat) : (s.draw k).drain = s.drain := rfl
@[simp] theorem State.draw_env (k : Nat) : (s.draw k).env = s.env := rfl
@[simp] theorem State.draw_agenda (k : Nat) : (s.draw k).agenda = s.agenda := rfl
@[simp] theorem State.draw_resp (k : Nat) : (s.draw k).resp = s.resp := rfl
@[simp] theorem State.draw_free (k : Nat) : (s.draw k).free = s.free + k := rfl

@[simp] theorem State.putDecoded_locked (r : Decoded) : (s.putDecoded r).locked = s.locked := rfl
@[simp] theorem State.putDecoded_cfgErr (r : Decoded) : (s.putDecoded r).cfgErr = s.cfgErr := rfl
@[simp] theorem State.putDecoded_cmdErr (r : Decoded) : (s.putDecoded r).cmdErr = s.cmdErr := rfl
@[simp] theorem State.putDecoded_result (r : Decoded) : (s.putDecoded r).result = s.result := rfl
@[simp] theorem State.putDecoded_errinfo (r : Decoded) : (s.putDecoded r).errinfo = s.errinfo := rfl
@[simp] theorem State.putDecoded_opw (r : Decoded) : (s.putDecoded r).opw = s.opw := rfl
@[simp] theorem State.putDecoded_opd (r : Decoded) : (s.putDecoded r).opd = s.opd := rfl
@[simp] theorem State.putDecoded_opa (r : Decoded) : (s.putDecoded r).opa = s.opa := rfl
@[simp] theorem State.putDecoded_outw (r : Decoded) : (s.putDecoded r).outw = s.outw := rfl
@[simp] theorem State.putDecoded_outd (r : Decoded) : (s.putDecoded r).outd = r.disc := rfl
@[simp] theorem State.putDecoded_outa (r : Decoded) : (s.putDecoded r).outa = r.engf := rfl
@[simp] theorem State.putDecoded_outi (r : Decoded) : (s.putDecoded r).outi = toU32 r.engi := rfl
@[simp] theorem State.putDecoded_outf (r : Decoded) : (s.putDecoded r).outf = outfSsm r.ssm r.sdi := rfl
@[simp] theorem State.putDecoded_outt (r : Decoded) : (s.putDecoded r).outt = s.outt := rfl
@[simp] theorem State.putDecoded_ct (r : Decoded) : (s.putDecoded r).ct = s.ct := rfl
@[simp] theorem State.putDecoded_groups (r : Decoded) : (s.putDecoded r).groups = s.groups := rfl
@[simp] theorem State.putDecoded_lp (r : Decoded) : (s.putDecoded r).lp = s.lp := rfl
@[simp] theorem State.putDecoded_df (r : Decoded) : (s.putDecoded r).df = s.df := rfl
@[simp] theorem State.putDecoded_drain (r : Decoded) : (s.putDecoded r).drain = s.drain := rfl
@[simp] theorem State.putDecoded_env (r : Decoded) : (s.putDecoded r).env = s.env := rfl
@[simp] theorem State.putDecoded_agenda (r : Decoded) : (s.putDecoded r).agenda = s.agenda := rfl
@[simp] theorem State.putDecoded_resp (r : Decoded) : (s.putDecoded r).resp = s.resp := rfl
@[simp] theorem State.putDecoded_free (r : Decoded) : (s.putDecoded r).free = s.free := rfl

@[simp] theorem State.rxDrop_locked (g : Nat) : (s.rxDrop g).locked = s.locked := rfl
@[simp] theorem State.rxDrop_cfgErr (g : Nat) : (s.rxDrop g).cfgErr = s.cfgErr := rfl
@[simp] theorem State.rxDrop_cmdErr (g : Nat) : (s.rxDrop g).cmdErr = s.cmdErr := rfl
@[simp] theorem State.rxDrop_result (g : Nat) : (s.rxDrop g).result = s.result := rfl
@[simp] theorem State.rxDrop_errinfo (g : Nat) : (s.rxDrop g).errinfo = s.errinfo := rfl
@[simp] theorem State.rxDrop_opw (g : Nat) : (s.rxDrop g).opw = s.opw := rfl
@[simp] theorem State.rxDrop_opd (g : Nat) : (s.rxDrop g).opd = s.opd := rfl
@[simp] theorem State.rxDrop_opa (g : Nat) : (s.rxDrop g).opa = s.opa := rfl
@[simp] theorem State.rxDrop_outw (g : Nat) : (s.rxDrop g).outw = s.outw := rfl
@[simp] theorem State.rxDrop_outd (g : Nat) : (s.rxDrop g).outd = s.outd := rfl
@[simp] theorem State.rxDrop_outa (g : Nat) : (s.rxDrop g).outa = s.outa := rfl
@[simp] theorem State.rxDrop_outi (g : Nat) : (s.rxDrop g).outi = s.outi := rfl
@[simp] theorem State.rxDrop_outf (g : Nat) : (s.rxDrop g).outf = s.outf := rfl
@[simp] theorem State.rxDrop_outt (g : Nat) : (s.rxDrop g).outt = s.outt := rfl
@[simp] theorem State.rxDrop_ct (g : Nat) : (s.rxDrop g).ct = s.ct := rfl
@[simp] theorem State.rxDrop_groups (g : Nat) : (s.rxDrop g).groups = s.groups := rfl
@[simp] theorem State.rxDrop_lp (g : Nat) : (s.rxDrop g).lp = s.lp := rfl
@[simp] theorem State.rxDrop_df (g : Nat) : (s.rxDrop g).df = s.df := rfl
@[simp] theorem State.rxDrop_drain (g : Nat) : (s.rxDrop g).drain = s.drain := rfl
@[simp] theorem State.rxDrop_env (g : Nat) :
    (s.rxDrop g).env = { s.env with ports := s.env.ports.modify g fun p => { p with queue := p.queue.tail } } := rfl
@[simp] theorem State.rxDrop_agenda (g : Nat) : (s.rxDrop g).agenda = s.agenda := rfl
@[simp] theorem State.rxDrop_resp (g : Nat) : (s.rxDrop g).resp = s.resp := rfl
@[simp] theorem State.rxDrop_free (g : Nat) : (s.rxDrop g).free = s.free := rfl

@[simp] theorem State.rxAppend_locked (g : Nat) (ws : List Word) : (s.rxAppend g ws).locked = s.locked := rfl
@[simp] theorem State.rxAppend_cfgErr (g : Nat) (ws : List Word) : (s.rxAppend g ws).cfgErr = s.cfgErr := rfl
@[simp] theorem State.rxAppend_cmdErr (g : Nat) (ws : List Word) : (s.rxAppend g ws).cmdErr = s.cmdErr := rfl
@[simp] theorem State.rxAppend_result (g : Nat) (ws : List Word) : (s.rxAppend g ws).result = s.result := rfl
@[simp] theorem State.rxAppend_errinfo (g : Nat) (ws : List Word) : (s.rxAppend g ws).errinfo = s.errinfo := rfl
@[simp] theorem State.rxAppend_opw (g : Nat) (ws : List Word) : (s.rxAppend g ws).opw = s.opw := rfl
@[simp] theorem State.rxAppend_opd (g : Nat) (ws : List Word) : (s.rxAppend g ws).opd = s.opd := rfl
@[simp] theorem State.rxAppend_opa (g : Nat) (ws : List Word) : (s.rxAppend g ws).opa = s.opa := rfl
@[simp] theorem State.rxAppend_outw (g : Nat) (ws : List Word) : (s.rxAppend g ws).outw = s.outw := rfl
@[simp] theorem State.rxAppend_outd (g : Nat) (ws : List Word) : (s.rxAppend g ws).outd = s.outd := rfl
@[simp] theorem State.rxAppend_outa (g : Nat) (ws : List Word) : (s.rxAppend g ws).outa = s.outa := rfl
@[simp] theorem State.rxAppend_outi (g : Nat) (ws : List Word) : (s.rxAppend g ws).outi = s.outi := rfl
@[simp] theorem State.rxAppend_outf (g : Nat) (ws : List Word) : (s.rxAppend g ws).outf = s.outf := rfl
@[simp] theorem State.rxAppend_outt (g : Nat) (ws : List Word) : (s.rxAppend g ws).outt = s.outt := rfl
@[simp] theorem State.rxAppend_ct (g : Nat) (ws : List Word) : (s.rxAppend g ws).ct = s.ct := rfl
@[simp] theorem State.rxAppend_groups (g : Nat) (ws : List Word) : (s.rxAppend g ws).groups = s.groups := rfl
@[simp] theorem State.rxAppend_lp (g : Nat) (ws : List Word) : (s.rxAppend g ws).lp = s.lp := rfl
@[simp] theorem State.rxAppend_df (g : Nat) (ws : List Word) : (s.rxAppend g ws).df = s.df := rfl
@[simp] theorem State.rxAppend_drain (g : Nat) (ws : List Word) : (s.rxAppend g ws).drain = s.drain := rfl
@[simp] theorem State.rxAppend_env (g : Nat) (ws : List Word) :
    (s.rxAppend g ws).env = { s.env with ports := s.env.ports.modify g fun p => { p with queue := p.queue ++ ws } } := rfl
@[simp] theorem State.rxAppend_agenda (g : Nat) (ws : List Word) : (s.rxAppend g ws).agenda = s.agenda := rfl
@[simp] theorem State.rxAppend_resp (g : Nat) (ws : List Word) : (s.rxAppend g ws).resp = s.resp := rfl
@[simp] theorem State.rxAppend_free (g : Nat) (ws : List Word) : (s.rxAppend g ws).free = s.free := rfl

@[simp] theorem State.drainDone_locked (d : DrainProgress) : (s.drainDone d).locked = s.locked := rfl
@[simp] theorem State.drainDone_cfgErr (d : DrainProgress) : (s.drainDone d).cfgErr = s.cfgErr := rfl
@[simp] theorem State.drainDone_cmdErr (d : DrainProgress) : (s.drainDone d).cmdErr = s.cmdErr := rfl
@[simp] theorem State.drainDone_result (d : DrainProgress) :
    (s.drainDone d).result = resultWord .success 0x21 := rfl
@[simp] theorem State.drainDone_errinfo (d : DrainProgress) : (s.drainDone d).errinfo = s.errinfo := rfl
@[simp] theorem State.drainDone_opw (d : DrainProgress) : (s.drainDone d).opw = s.opw := rfl
@[simp] theorem State.drainDone_opd (d : DrainProgress) : (s.drainDone d).opd = s.opd := rfl
@[simp] theorem State.drainDone_opa (d : DrainProgress) : (s.drainDone d).opa = s.opa := rfl
@[simp] theorem State.drainDone_outw (d : DrainProgress) : (s.drainDone d).outw = s.outw := rfl
@[simp] theorem State.drainDone_outd (d : DrainProgress) : (s.drainDone d).outd = BitVec.ofNat 32 d.nok := rfl
@[simp] theorem State.drainDone_outa (d : DrainProgress) : (s.drainDone d).outa = s.outa := rfl
@[simp] theorem State.drainDone_outi (d : DrainProgress) : (s.drainDone d).outi = BitVec.ofNat 32 d.nread := rfl
@[simp] theorem State.drainDone_outf (d : DrainProgress) : (s.drainDone d).outf = s.outf := rfl
@[simp] theorem State.drainDone_outt (d : DrainProgress) : (s.drainDone d).outt = s.outt := rfl
@[simp] theorem State.drainDone_ct (d : DrainProgress) : (s.drainDone d).ct = s.ct := rfl
@[simp] theorem State.drainDone_groups (d : DrainProgress) : (s.drainDone d).groups = s.groups := rfl
@[simp] theorem State.drainDone_lp (d : DrainProgress) : (s.drainDone d).lp = s.lp := rfl
@[simp] theorem State.drainDone_df (d : DrainProgress) : (s.drainDone d).df = s.df := rfl
@[simp] theorem State.drainDone_drain (d : DrainProgress) : (s.drainDone d).drain = none := rfl
@[simp] theorem State.drainDone_env (d : DrainProgress) : (s.drainDone d).env = s.env := rfl
@[simp] theorem State.drainDone_agenda (d : DrainProgress) : (s.drainDone d).agenda = s.agenda := rfl
@[simp] theorem State.drainDone_resp (d : DrainProgress) : (s.drainDone d).resp = s.resp := rfl
@[simp] theorem State.drainDone_free (d : DrainProgress) : (s.drainDone d).free = s.free := rfl

end Sys2Proof.Machine
end

