-- ==== Sys2Proof/Laws/Exec.lean ====
section
/-! SUPPORT. What a command can do to each part of the state, over all commands: an induction principle, and what it
gives for the inputs, the operand registers and the groups. -/

namespace Sys2Proof.Machine

/-- A property of the next state of every command holds if it holds of a state that only ended, of every result of
LOCK, and of the body of every other command in RUN mode. -/
theorem exec_elim {P : State → Prop} (i : Instr) (s t : State) (h : exec i s = .next t)
    (ends : ∀ code, code ≠ .error → P (s.finish code i.opc))
    (lockFails : ∀ e, i = .lock → s.locked = false → lockFailure s = some e →
      P ({ s with cfgErr := true, errinfo := e }.finish .invalidArgument i.opc))
    (locks : i = .lock → s.locked = false → lockFailure s = none →
      P ({ s with locked := true, cfgErr := false }.finish .success i.opc))
    (dec : ∀ n c code, i = .dec n → s.locked = true → s.entry n = some c →
      decodeWord (s.nan 0) c s.opw = .error code → P (s.finish code i.opc))
    (decoded : ∀ n c r, i = .dec n → s.locked = true → s.entry n = some c →
      decodeWord (s.nan 0) c s.opw = .ok r → P (((s.putDecoded r).draw 1).finish .success i.opc))
    (enc : ∀ n ssm sdi c code, i = .enc n ssm sdi → s.locked = true → s.entry n = some c →
      encodeWord (s.nan 0) c s.opa s.opd ssm sdi = .error code → P (s.finish code i.opc))
    (encoded : ∀ n ssm sdi c r, i = .enc n ssm sdi → s.locked = true → s.entry n = some c →
      encodeWord (s.nan 0) c s.opa s.opd ssm sdi = .ok r →
      P ((State.draw { s with outw := r.word } 1).finish (if r.clipped then .sentDataClipped else .success) i.opc))
    (chkv : ∀ n c, i = .chkv n → s.locked = true → s.entry n = some c →
      P (State.finish { s with outf := outfSsm (checkBnrValidity s.opa c) 0 } .success i.opc))
    (rxw : ∀ g G, i = .rxw g → s.locked = true → s.groups[g]? = some G →
      P ((processReceived g G s.opw s).2.finish (processReceived g G s.opw s).1 i.opc))
    (drain : ∀ g G, i = .drain g → s.locked = true → s.groups[g]? = some G → P (drainIter ⟨g, 0, 0⟩ s))
    (tick : ∀ g G, i = .tick g → s.locked = true → s.groups[g]? = some G →
      P (State.finish
        { s.setGroup g { G with cnt := tickCount G.cnt, failed := decide (G.maxbf ≤ tickCount G.cnt) } with
          outi := tickCount G.cnt
          outf := outfBool (decide (G.maxbf ≤ tickCount G.cnt)) } .success i.opc))
    (getd : ∀ g label G j, i = .getd g label → s.locked = true → s.groups[g]? = some G → G.lookup label = some j →
      P (State.finish
        { s with
          outw := G.slots[j].raw
          outa := G.slots[j].engf
          outi := G.slots[j].engi
          outd := G.slots[j].disc
          outt := G.slots[j].lastGood
          outf := outfWord G.slots[j].sm G.slots[j].sdi (isFresh G.entries[j] G.slots[j] s.clock) G.slots[j].nb false }
        .success i.opc))
    (getw : ∀ g octal G j, i = .getw g octal → s.locked = true → s.groups[g]? = some G →
      G.lookup (rev8 octal) = some j →
      P (State.finish
        { s with
          outw := G.slots[j].raw
          outf := outfBool (isFresh G.entries[j] G.slots[j] s.clock && G.slots[j].nb) } .success i.opc))
    (getwAbsent : ∀ g octal G, i = .getw g octal → s.locked = true → s.groups[g]? = some G →
      G.lookup (rev8 octal) = none → P (State.finish { s with outw := 0, outf := 0 } .noMatchingLabel i.opc))
    (lp : ∀ e l l', s.locked = true → s.lp[e]? = some l →
      ((i = .lprst e ∧ l' = l.clear) ∨ (i = .lppre e ∧ l' = l.preload s.opa)) →
      P ((s.setLp e l').finish .success i.opc))
    (lpstep : ∀ e l, i = .lpstep e → s.locked = true → s.lp[e]? = some l →
      P ((State.draw { s.setLp e (l.next s.nan s.opa).2 with outa := (l.next s.nan s.opa).1 } 3).finish .success i.opc))
    (lpspool : ∀ e n valid l c r, i = .lpspool e n valid → s.locked = true → s.lp[e]? = some l → s.entry n = some c →
      r = spoolCycle l.clear.preload (l.next s.nan) l l.spool c valid s.opa →
      P ((State.draw { s.setLp e { r.engine with spool := r.spool } with outa := r.y, outf := outfSsm r.ssm 0 } 3).finish
        .success i.opc))
    (df : ∀ e d d', s.locked = true → s.df[e]? = some d →
      ((i = .dfrst e ∧ d' = d.clear) ∨ (i = .dfpre e ∧ d' = d.preload s.opa)) →
      P ((s.setDf e d').finish .success i.opc))
    (dfstep : ∀ e d, i = .dfstep e → s.locked = true → s.df[e]? = some d →
      P ((State.draw { s.setDf e (d.next s.nan s.opa).2 with outa := (d.next s.nan s.opa).1 } 2).finish .success i.opc))
    (dfspool : ∀ e n valid d c r, i = .dfspool e n valid → s.locked = true → s.df[e]? = some d → s.entry n = some c →
      r = spoolCycle d.clear.preload (d.next s.nan) d d.spool c valid s.opa →
      P ((State.draw { s.setDf e { r.engine with spool := r.spool } with outa := r.y, outf := outfSsm r.ssm 0 } 2).finish
        .success i.opc)) : P t := by
  have notLocked := ends .notLocked (by simp)
  have badIndex := ends .invalidArgument (by simp)
  cases i <;> simp only [exec, execNop, execLock, execDec, execEnc, execChkv, execRxw, execDrain, execTick, execGetd,
    execGetw, execLprst, execLppre, execLpstep, execLpspool, execDfrst, execDfpre, execDfstep, execDfspool,
    Host.Outcome.next.injEq] at h <;> subst h
  case nop => exact ends .success (by simp)
  case lock =>
    split
    · exact ends .success (by simp)
    · rename_i hl
      have hl : s.locked = false := by simpa using hl
      split
      · exact lockFails _ rfl hl (by assumption)
      · exact locks rfl hl (by assumption)
  case dec n =>
    refine withEntry_elim _ s n _ (fun _ => notLocked) (fun _ _ => badIndex) fun c hl hc => ?_
    split
    · exact dec n c _ rfl hl hc (by assumption)
    · exact decoded n c _ rfl hl hc (by assumption)
  case enc n ssm sdi =>
    refine withEntry_elim _ s n _ (fun _ => notLocked) (fun _ _ => badIndex) fun c hl hc => ?_
    split
    · exact enc n ssm sdi c _ rfl hl hc (by assumption)
    · exact encoded n ssm sdi c _ rfl hl hc (by assumption)
  case chkv n =>
    exact withEntry_elim _ s n _ (fun _ => notLocked) (fun _ _ => badIndex) fun c hl hc => chkv n c rfl hl hc
  case rxw g =>
    exact withGroup_elim _ s g _ (fun _ => notLocked) (fun _ _ => badIndex) fun G hl hg => rxw g G rfl hl hg
  case drain g =>
    exact withGroup_elim _ s g _ (fun _ => notLocked) (fun _ _ => badIndex) fun G hl hg => drain g G rfl hl hg
  case tick g =>
    exact withGroup_elim _ s g _ (fun _ => notLocked) (fun _ _ => badIndex) fun G hl hg => tick g G rfl hl hg
  case getd g label =>
    refine withGroup_elim _ s g _ (fun _ => notLocked) (fun _ _ => badIndex) fun G hl hg => ?_
    split
    · exact ends .noMatchingLabel (by simp)
    · exact getd g label G _ rfl hl hg (by assumption)
  case getw g octal =>
    refine withGroup_elim _ s g _ (fun _ => notLocked) (fun _ _ => badIndex) fun G hl hg => ?_
    split
    · exact getwAbsent g octal G rfl hl hg (by assumption)
    · exact getw g octal G _ rfl hl hg (by assumption)
  case lprst e =>
    exact withLp_elim _ s e _ (fun _ => notLocked) (fun _ _ => badIndex) fun l hl he =>
      lp e l _ hl he (.inl ⟨rfl, rfl⟩)
  case lppre e =>
    exact withLp_elim _ s e _ (fun _ => notLocked) (fun _ _ => badIndex) fun l hl he =>
      lp e l _ hl he (.inr ⟨rfl, rfl⟩)
  case lpstep e =>
    exact withLp_elim _ s e _ (fun _ => notLocked) (fun _ _ => badIndex) fun l hl he => lpstep e l rfl hl he
  case lpspool e n valid =>
    exact withLp_elim _ s e _ (fun _ => notLocked) (fun _ _ => badIndex) fun l hl he =>
      withEntry_elim _ s n _ (fun _ => notLocked) (fun _ _ => badIndex) fun c _ hc =>
        lpspool e n valid l c _ rfl hl he hc rfl
  case dfrst e =>
    exact withDf_elim _ s e _ (fun _ => notLocked) (fun _ _ => badIndex) fun d hl he =>
      df e d _ hl he (.inl ⟨rfl, rfl⟩)
  case dfpre e =>
    exact withDf_elim _ s e _ (fun _ => notLocked) (fun _ _ => badIndex) fun d hl he =>
      df e d _ hl he (.inr ⟨rfl, rfl⟩)
  case dfstep e =>
    exact withDf_elim _ s e _ (fun _ => notLocked) (fun _ _ => badIndex) fun d hl he => dfstep e d rfl hl he
  case dfspool e n valid =>
    exact withDf_elim _ s e _ (fun _ => notLocked) (fun _ _ => badIndex) fun d hl he =>
      withEntry_elim _ s n _ (fun _ => notLocked) (fun _ _ => badIndex) fun c _ hc =>
        dfspool e n valid d c _ rfl hl he hc rfl

/-- A group that a command or an iteration of DRAIN replaces keeps its configuration, and its slots but for one that a
good receipt writes (rules R191, R210). -/
def Group.Follows (t : Word) (G G' : Group) : Prop :=
  G' = { G with cnt := tickCount G.cnt, failed := decide (G.maxbf ≤ tickCount G.cnt) } ∨
  ∃ j w nan r, G.lookup (wordLabel w) = some j ∧ decodeWord nan G.entries[j] w = .ok r ∧ G' = G.receive j w t r

theorem Group.Follows.config {t : Word} {G G' : Group} (h : Group.Follows t G G') :
    G'.num = G.num ∧ G'.maxbf = G.maxbf ∧ G'.entries = G.entries := by
  rcases h with rfl | ⟨j, w, nan, r, -, -, rfl⟩ <;> exact ⟨rfl, rfl, rfl⟩

/-- What an iteration of DRAIN does outside the queues, the groups, OUTI, OUTD, RESULT and the DRAIN itself: nothing. -/
theorem drainIter_keeps (d : DrainProgress) (s : State) :
    (drainIter d s).locked = s.locked ∧ (drainIter d s).cfgErr = s.cfgErr ∧ (drainIter d s).cmdErr = s.cmdErr ∧
    (drainIter d s).errinfo = s.errinfo ∧ (drainIter d s).opw = s.opw ∧ (drainIter d s).opd = s.opd ∧
    (drainIter d s).opa = s.opa ∧ (drainIter d s).outw = s.outw ∧ (drainIter d s).outa = s.outa ∧
    (drainIter d s).outf = s.outf ∧ (drainIter d s).outt = s.outt ∧ (drainIter d s).ct = s.ct ∧
    (drainIter d s).lp = s.lp ∧ (drainIter d s).df = s.df ∧ (drainIter d s).agenda = s.agenda ∧
    (drainIter d s).resp = s.resp ∧ (drainIter d s).env.now = s.env.now ∧
    ((drainIter d s).groups = s.groups ∨
      ∃ G G' j w nan r, s.groups[d.grp]? = some G ∧ (drainIter d s).groups = s.groups.set d.grp G' ∧
        w = s.rxHead d.grp ∧ w.getLsbD 31 = false ∧ G.lookup (wordLabel w) = some j ∧
        decodeWord nan G.entries[j] w = .ok r ∧ G' = G.receive j w s.env.now r) := by
  rcases drainIter_cases d s with ⟨-, h⟩ | ⟨p, -, hp, ⟨-, h⟩ | ⟨-, h⟩⟩ <;> rw [h]
  · simp
  all_goals
    rcases drainWord_cases d.grp (s.rxHead d.grp) (s.rxDrop d.grp) with h' | ⟨G, j, r, hG, hw, hj, hd, h'⟩ <;>
      rw [hp, h']
    · simp
    · iterate 17 refine And.intro (by simp [State.rxDrop]) ?_
      exact .inr ⟨G, _, j, _, _, r, hG, rfl, rfl, hw, hj, hd, rfl⟩

/-- What a command does outside the outputs and what it names: nothing. -/
theorem exec_keeps (i : Instr) (s t : State) (h : exec i s = .next t) :
    t.cmdErr = s.cmdErr ∧ t.opw = s.opw ∧ t.opd = s.opd ∧ t.opa = s.opa ∧ t.ct = s.ct ∧ t.agenda = s.agenda ∧
    t.resp = s.resp ∧ t.env.now = s.env.now ∧ (s.locked = true → t.locked = true) ∧
    (i ≠ .lock → t.locked = s.locked ∧ t.cfgErr = s.cfgErr ∧ t.errinfo = s.errinfo) ∧
    ((∀ g, i ≠ .drain g) → t.env = s.env ∧ t.drain = s.drain) := by
  apply exec_elim (P := fun t => t.cmdErr = s.cmdErr ∧ t.opw = s.opw ∧ t.opd = s.opd ∧ t.opa = s.opa ∧ t.ct = s.ct ∧
    t.agenda = s.agenda ∧ t.resp = s.resp ∧ t.env.now = s.env.now ∧ (s.locked = true → t.locked = true) ∧
    (i ≠ .lock → t.locked = s.locked ∧ t.cfgErr = s.cfgErr ∧ t.errinfo = s.errinfo) ∧
    ((∀ g, i ≠ .drain g) → t.env = s.env ∧ t.drain = s.drain)) i s t h
  case rxw =>
    rintro g G rfl hl hg
    rcases processReceived_cases g G s.opw s with ⟨-, h'⟩ | ⟨j, code, -, -, h'⟩ | ⟨j, r, -, -, h'⟩ <;>
      simp only [h'] <;> simp
  case drain =>
    rintro g G rfl hl hg
    obtain ⟨h1, h2, h3, h4, h5, h6, h7, -, -, -, -, h12, -, -, h15, h16, h17, -⟩ := drainIter_keeps ⟨g, 0, 0⟩ s
    refine ⟨h3, h5, h6, h7, h12, h15, h16, h17, fun hl' => h1.trans hl', fun _ => ⟨h1, h2, h4⟩, fun hn => ?_⟩
    exact absurd rfl (hn g)
  all_goals intros; simp_all

/-- What a command does to the groups: nothing, or TICK, RXW or DRAIN replaces its group. -/
theorem exec_groups (i : Instr) (s t : State) (h : exec i s = .next t) :
    t.groups = s.groups ∨
    ∃ g G G', (i = .tick g ∨ i = .rxw g ∨ i = .drain g) ∧ s.groups[g]? = some G ∧ t.groups = s.groups.set g G' ∧
      Group.Follows s.env.now G G' := by
  apply exec_elim (P := fun t => t.groups = s.groups ∨
    ∃ g G G', (i = .tick g ∨ i = .rxw g ∨ i = .drain g) ∧ s.groups[g]? = some G ∧ t.groups = s.groups.set g G' ∧
      Group.Follows s.env.now G G') i s t h
  case rxw =>
    rintro g G rfl hl hg
    rcases processReceived_cases g G s.opw s with ⟨-, h'⟩ | ⟨j, code, -, -, h'⟩ | ⟨j, r, hj, hd, h'⟩ <;> simp only [h']
    · left; rfl
    · left; rfl
    · exact .inr ⟨g, G, _, .inr (.inl rfl), hg, rfl, .inr ⟨j, _, _, r, hj, hd, rfl⟩⟩
  case drain =>
    rintro g G rfl hl hg
    obtain ⟨-, -, -, -, -, -, -, -, -, -, -, -, -, -, -, -, -, h'⟩ := drainIter_keeps ⟨g, 0, 0⟩ s
    rcases h' with h' | ⟨G1, G', j, w, nan, r, hG1, hs, -, -, hj, hd, rfl⟩
    · exact .inl h'
    · exact .inr ⟨g, G1, _, .inr (.inr rfl), hG1, hs, .inr ⟨j, w, nan, r, hj, hd, rfl⟩⟩
  case tick =>
    rintro g G rfl hl hg
    exact .inr ⟨g, G, _, .inl rfl, hg, rfl, .inl rfl⟩
  all_goals intros; left; simp

end Sys2Proof.Machine
end

