-- ==== Sys2Proof/Laws/Filter.lean ====
section
/-! SUPPORT. The five cases of a spool cycle (rule R250), and what each does to the spool state (rule R251). -/

namespace Sys2Proof.Machine

variable {α : Type} (restart : Flt → α) (next : Flt → Flt × α) (engine : α) (sp : Spool) (c : LabelConfig) (x : Flt)

theorem spoolCycle_invalid : spoolCycle restart next engine sp c false x = ⟨engine, ⟨false, 0⟩, 0, bnrFW⟩ := by
  simp [spoolCycle]

theorem spoolCycle_good (h : sp.good = true) :
    spoolCycle restart next engine sp c true x = ⟨(next x).2, sp, (next x).1, checkBnrValidity (next x).1 c⟩ := by
  simp [spoolCycle, h]

theorem spoolCycle_first (h : sp.good = false) (h0 : sp.count = 0) :
    spoolCycle restart next engine sp c true x = ⟨restart x, ⟨false, 1⟩, 0, bnrFW⟩ := by
  simp [spoolCycle, h, h0]

theorem spoolCycle_counts (h : sp.good = false) (h0 : sp.count ≠ 0) (h1 : ¬ Config.spoolThreshold < sp.count + 1) :
    spoolCycle restart next engine sp c true x = ⟨(next x).2, ⟨false, sp.count + 1⟩, (next x).1, bnrFW⟩ := by
  simp only [spoolCycle, h, if_neg h0, if_neg h1, Bool.not_true, Bool.false_eq_true, if_false]

theorem spoolCycle_becomesGood (h : sp.good = false) (h0 : sp.count ≠ 0) (h1 : Config.spoolThreshold < sp.count + 1) :
    spoolCycle restart next engine sp c true x =
      ⟨(next x).2, ⟨true, sp.count + 1⟩, (next x).1, checkBnrValidity (next x).1 c⟩ := by
  simp only [spoolCycle, h, if_neg h0, if_pos h1, Bool.not_true, Bool.false_eq_true, if_false]

/-- What a cycle does to the spool state. -/
theorem spoolCycle_spool (valid : Bool) :
    (spoolCycle restart next engine sp c valid x).spool =
      if valid = false then ⟨false, 0⟩
      else if sp.good = true then sp
      else if sp.count = 0 then ⟨false, 1⟩
      else ⟨decide (Config.spoolThreshold < sp.count + 1), sp.count + 1⟩ := by
  cases valid with
  | false => simp [spoolCycle_invalid]
  | true =>
    cases h : sp.good with
    | true => simp [spoolCycle_good _ _ _ _ _ _ h]
    | false =>
      by_cases h0 : sp.count = 0
      · simp [spoolCycle_first _ _ _ _ _ _ h h0, h0]
      · by_cases h1 : Config.spoolThreshold < sp.count + 1
        · rw [spoolCycle_becomesGood _ _ _ _ _ _ h h0 h1, if_neg (by simp), if_neg (by simp), if_neg h0,
            decide_eq_true h1]
        · rw [spoolCycle_counts _ _ _ _ _ _ h h0 h1, if_neg (by simp), if_neg (by simp), if_neg h0,
            decide_eq_false h1]

/-- A low-pass step keeps everything but `prev` (rule R242). -/
@[simp] theorem LowPass.next_k1 (l : LowPass) (nan : Nat → Flt) : (l.next nan x).2.k1 = l.k1 := rfl
@[simp] theorem LowPass.next_k2 (l : LowPass) (nan : Nat → Flt) : (l.next nan x).2.k2 = l.k2 := rfl
@[simp] theorem LowPass.next_pre (l : LowPass) (nan : Nat → Flt) : (l.next nan x).2.pre = l.pre := rfl
@[simp] theorem LowPass.next_spool (l : LowPass) (nan : Nat → Flt) : (l.next nan x).2.spool = l.spool := rfl
@[simp] theorem LowPass.next_prev (l : LowPass) (nan : Nat → Flt) : (l.next nan x).2.prev = (l.next nan x).1 := rfl

/-- A differentiator step keeps everything but `pin` and `pout` (rule R247). -/
@[simp] theorem Diff.next_k1 (d : Diff) (nan : Nat → Flt) : (d.next nan x).2.k1 = d.k1 := rfl
@[simp] theorem Diff.next_fs (d : Diff) (nan : Nat → Flt) : (d.next nan x).2.fs = d.fs := rfl
@[simp] theorem Diff.next_ul (d : Diff) (nan : Nat → Flt) : (d.next nan x).2.ul = d.ul := rfl
@[simp] theorem Diff.next_ll (d : Diff) (nan : Nat → Flt) : (d.next nan x).2.ll = d.ll := rfl
@[simp] theorem Diff.next_ud (d : Diff) (nan : Nat → Flt) : (d.next nan x).2.ud = d.ud := rfl
@[simp] theorem Diff.next_ld (d : Diff) (nan : Nat → Flt) : (d.next nan x).2.ld = d.ld := rfl
@[simp] theorem Diff.next_spool (d : Diff) (nan : Nat → Flt) : (d.next nan x).2.spool = d.spool := rfl
@[simp] theorem Diff.next_pin (d : Diff) (nan : Nat → Flt) : (d.next nan x).2.pin = x := rfl
@[simp] theorem Diff.next_pout (d : Diff) (nan : Nat → Flt) : (d.next nan x).2.pout = (d.next nan x).1 := rfl

end Sys2Proof.Machine
end

