-- ==== Sys2Proof/Laws/Flags.lean ====
section
/-! SUPPORT. The packed words as sums of their fields. -/

namespace Sys2Proof.Machine

/-- A boolean as a word is its number. -/
theorem bit_eq (b : Bool) : bit b = BitVec.ofNat 32 b.toNat := by cases b <;> rfl

/-- RESULT as a sum (rules R34, R270). -/
theorem resultWord_eq (c : ResultCode) (opc : BitVec 8) :
    resultWord c opc = BitVec.ofNat 32 (c.code.toNat + 256 * opc.toNat) := by
  cases c <;> revert opc <;> decide +kernel

/-- STATUS as a sum (rule R35). -/
theorem statusWord_eq (s : State) :
    statusWord s = BitVec.ofNat 32 (s.locked.toNat + 2 * s.cfgErr.toNat + 4 * s.cmdErr.toNat) := by
  unfold statusWord
  cases s.locked <;> cases s.cfgErr <;> cases s.cmdErr <;> rfl

/-- A field ORed in above the bits in use is added. -/
theorem toNat_or_shiftLeft (w x : Word) (k : Nat) (hw : w.toNat < 2 ^ k) (hx : x.toNat * 2 ^ k < 2 ^ 32) :
    (w ||| x <<< k).toNat = w.toNat + x.toNat * 2 ^ k := by
  rw [BitVec.toNat_or, BitVec.toNat_shiftLeft, Nat.shiftLeft_eq, Nat.mod_eq_of_lt hx, Nat.or_comm, ← Nat.shiftLeft_eq,
    ← Nat.shiftLeft_add_eq_or_of_lt hw, Nat.add_comm]

/-- CFG0 as a sum (rules R39, R81, R82). -/
theorem cfg0Word_toNat (hasEn : Bool) (c : LabelConfig) :
    (cfg0Word hasEn c).toNat =
      c.label.toNat + c.msgType.code.toNat * 2 ^ 8 + c.nsig.toNat * 2 ^ 10 + c.ndisc.toNat * 2 ^ 15 +
        c.minvEn.toNat * 2 ^ 20 + c.maxvEn.toNat * 2 ^ 21 + (hasEn && c.en).toNat * 2 ^ 31 := by
  have hl := c.label.isLt
  have ht := c.msgType.code.isLt
  have hn := c.nsig.isLt
  have hd := c.ndisc.isLt
  have hb (b : Bool) : (bit b).toNat = b.toNat ∧ b.toNat ≤ 1 := by cases b <;> decide
  have hmin := hb c.minvEn
  have hmax := hb c.maxvEn
  have hen := hb (hasEn && c.en)
  have hw (n : Nat) (x : BitVec n) (h : n ≤ 32) : (x.setWidth 32).toNat = x.toNat := by
    rw [BitVec.toNat_setWidth, Nat.mod_eq_of_lt (Nat.lt_of_lt_of_le x.isLt (Nat.pow_le_pow_right (by decide) h))]
  have wl := hw 8 c.label (by decide)
  have wt := hw 2 c.msgType.code (by decide)
  have wn := hw 5 c.nsig (by decide)
  have wd := hw 5 c.ndisc (by decide)
  have e1 := toNat_or_shiftLeft (c.label.setWidth 32) (c.msgType.code.setWidth 32) 8 (by omega) (by omega)
  have e2 := toNat_or_shiftLeft _ (c.nsig.setWidth 32) 10 (by rw [e1]; omega) (by omega)
  have e3 := toNat_or_shiftLeft _ (c.ndisc.setWidth 32) 15 (by rw [e2, e1]; omega) (by omega)
  have e4 := toNat_or_shiftLeft _ (bit c.minvEn) 20 (by rw [e3, e2, e1]; omega) (by omega)
  have e5 := toNat_or_shiftLeft _ (bit c.maxvEn) 21 (by rw [e4, e3, e2, e1]; omega) (by omega)
  have e6 := toNat_or_shiftLeft _ (bit (hasEn && c.en)) 31 (by rw [e5, e4, e3, e2, e1]; omega) (by omega)
  unfold cfg0Word
  rw [e6, e5, e4, e3, e2, e1]
  omega

/-- OUTF as a sum (rule R33). -/
theorem outfWord_eq (ssm sdi : BitVec 2) (fresh nb bool : Bool) :
    outfWord ssm sdi fresh nb bool =
      BitVec.ofNat 32 (ssm.toNat + 4 * sdi.toNat + 16 * fresh.toNat + 32 * nb.toNat + 64 * bool.toNat) := by
  revert ssm sdi fresh nb bool; decide

/-- S_FLAGS as a sum (rule R82). -/
theorem slotFlagsWord_eq (x : Slot) :
    slotFlagsWord x = BitVec.ofNat 32 (x.sm.toNat + 4 * x.sdi.toNat + 16 * x.nb.toNat) := by
  unfold slotFlagsWord
  generalize x.sm = sm, x.sdi = sdi, x.nb = nb
  revert sm sdi nb; decide

/-- LP_STAT as a sum (rule R80). -/
theorem lpStatWord_eq (l : LowPass) :
    lpStatWord l = BitVec.ofNat 32 (l.pre.toNat + 2 * l.spool.good.toNat) := by
  unfold lpStatWord
  cases l.pre <;> cases l.spool.good <;> rfl

/-- DF_STAT as a sum (rule R80). -/
theorem dfStatWord_eq (d : Diff) : dfStatWord d = BitVec.ofNat 32 (2 * d.spool.good.toNat) := by
  unfold dfStatWord
  cases d.spool.good <;> rfl

/-- The halves of a binary64 encoding as numbers (rule R75). -/
theorem half_lo (x : Flt) : half x .lo = BitVec.ofNat 32 (x.toNat % 2 ^ 32) := by
  apply BitVec.eq_of_toNat_eq; simp [half, BitVec.extractLsb'_toNat]

theorem half_hi (x : Flt) : half x .hi = BitVec.ofNat 32 (x.toNat / 2 ^ 32) := by
  apply BitVec.eq_of_toNat_eq; simp [half, BitVec.extractLsb'_toNat, Nat.shiftRight_eq_div_pow]

/-- Writing a half and reading it back, and the other half kept (rule R75). -/
@[simp] theorem half_setHalf_same (x : Flt) (h : Half) (v : Word) : half (setHalf x h v) h = v := by
  cases h <;> simp only [half, setHalf] <;> apply BitVec.eq_of_getLsbD_eq <;> intro i hi <;>
    simp only [BitVec.getLsbD_extractLsb', BitVec.getLsbD_append] <;> simp [hi]

@[simp] theorem half_lo_setHalf_hi (x : Flt) (v : Word) : half (setHalf x .hi v) .lo = half x .lo := by
  simp only [half, setHalf]
  apply BitVec.eq_of_getLsbD_eq
  intro i hi
  simp only [BitVec.getLsbD_extractLsb', BitVec.getLsbD_append]
  simp [hi]

@[simp] theorem half_hi_setHalf_lo (x : Flt) (v : Word) : half (setHalf x .lo v) .hi = half x .hi := by
  simp only [half, setHalf]
  apply BitVec.eq_of_getLsbD_eq
  intro i hi
  simp only [BitVec.getLsbD_extractLsb', BitVec.getLsbD_append]
  simp [hi]

end Sys2Proof.Machine
end

