-- ==== Sys2Proof/Laws/Flt.lean ====
section
/-! SUPPORT. The fields of a binary64 encoding, and where the NaN an operation is given matters (rule R12). -/

namespace Sys2Proof.Machine

/-- The exponent field as bits. -/
theorem Flt.expo_eq (x : Flt) : Flt.expo x = (x.extractLsb' 52 11).toNat := by
  simp [Flt.expo, BitVec.extractLsb'_toNat, Nat.shiftRight_eq_div_pow]

/-- The fraction field as bits. -/
theorem Flt.frac_eq (x : Flt) : Flt.frac x = (x.extractLsb' 0 52).toNat := by
  simp [Flt.frac, BitVec.extractLsb'_toNat]

/-- Every draw gives a NaN (log 6). -/
@[simp] theorem Flt.isNaN_toNaN (x : Flt) : Flt.isNaN (Flt.toNaN x) = true := by
  unfold Flt.toNaN
  split
  · assumption
  · have he : (x ||| 0x7FF8000000000000).extractLsb' 52 11 = BitVec.allOnes 11 := by
      apply BitVec.eq_of_getLsbD_eq
      intro i hi
      have h : ∀ i : Fin 11, (0x7FF8000000000000 : Flt).getLsbD (52 + i.val) = true := by decide
      have hi' := h ⟨i, hi⟩
      simp only [BitVec.getLsbD_extractLsb', BitVec.getLsbD_or, hi', BitVec.getLsbD_allOnes, hi, Bool.or_true,
        decide_true, Bool.true_and]
    have hf : (x ||| 0x7FF8000000000000).extractLsb' 0 52 ≠ 0 := by
      intro h
      have h1 := congrArg (fun b : BitVec 52 => b.getLsbD 51) h
      have h2 : (0x7FF8000000000000 : Flt).getLsbD 51 = true := by decide
      simp only [BitVec.getLsbD_extractLsb', BitVec.getLsbD_or, Nat.zero_add, h2, Bool.or_true] at h1
      exact absurd h1 (by decide)
    unfold Flt.isNaN
    rw [Flt.expo_eq, Flt.frac_eq, he]
    simp only [Bool.and_eq_true, beq_iff_eq, bne_iff_ne, ne_eq]
    exact ⟨rfl, fun h => hf (BitVec.eq_of_toNat_eq (by simpa using h))⟩

/-- A NaN draw is that NaN: every NaN is possible (log 6). -/
theorem Flt.toNaN_of_isNaN (x : Flt) (h : Flt.isNaN x = true) : Flt.toNaN x = x := by
  simp [Flt.toNaN, h]

/-- A finite value is no NaN and no infinity. -/
theorem Flt.not_isNaN_of_isFinite {x : Flt} (h : Flt.isFinite x = true) : Flt.isNaN x = false := by
  simp only [Flt.isFinite, bne_iff_ne, ne_eq] at h
  simp [Flt.isNaN, h]

theorem Flt.not_isInf_of_isFinite {x : Flt} (h : Flt.isFinite x = true) : Flt.isInf x = false := by
  simp only [Flt.isFinite, bne_iff_ne, ne_eq] at h
  simp [Flt.isInf, h]

/-- Every encoding is a NaN, an infinity, or finite. -/
theorem Flt.classify (x : Flt) : Flt.isNaN x = true ∨ Flt.isInf x = true ∨ Flt.isFinite x = true := by
  unfold Flt.isNaN Flt.isInf Flt.isFinite
  by_cases h : Flt.expo x = 2047 <;> by_cases h' : Flt.frac x = 0 <;> simp [h, h']

/-- Flipping the sign keeps the exponent and the fraction. -/
@[simp] theorem Flt.isNaN_neg (x : Flt) : Flt.isNaN (Flt.neg x) = Flt.isNaN x := by
  have he : (Flt.neg x).extractLsb' 52 11 = x.extractLsb' 52 11 := by
    have h : ∀ i : Fin 11, (0x8000000000000000 : Flt).getLsbD (52 + i.val) = false := by decide
    apply BitVec.eq_of_getLsbD_eq
    intro i hi
    simp only [Flt.neg, BitVec.getLsbD_extractLsb', BitVec.getLsbD_xor, h ⟨i, hi⟩, Bool.xor_false]
  have hf : (Flt.neg x).extractLsb' 0 52 = x.extractLsb' 0 52 := by
    have h : ∀ i : Fin 52, (0x8000000000000000 : Flt).getLsbD (0 + i.val) = false := by decide
    apply BitVec.eq_of_getLsbD_eq
    intro i hi
    simp only [Flt.neg, BitVec.getLsbD_extractLsb', BitVec.getLsbD_xor, h ⟨i, hi⟩, Bool.xor_false]
  simp only [Flt.isNaN, Flt.expo_eq, Flt.frac_eq, he, hf]

/-- A NaN operand gives the NaN the operation is given. -/
theorem Flt.add_nan (nan x y : Flt) (h : Flt.isNaN x = true ∨ Flt.isNaN y = true) : Flt.add nan x y = nan := by
  rcases h with h | h <;> simp [Flt.add, h]

theorem Flt.sub_nan (nan x y : Flt) (h : Flt.isNaN x = true ∨ Flt.isNaN y = true) : Flt.sub nan x y = nan :=
  Flt.add_nan nan x _ (by simpa using h)

theorem Flt.mul_nan (nan x y : Flt) (h : Flt.isNaN x = true ∨ Flt.isNaN y = true) : Flt.mul nan x y = nan := by
  rcases h with h | h <;> simp [Flt.mul, h]

theorem Flt.div_nan (nan x y : Flt) (h : Flt.isNaN x = true ∨ Flt.isNaN y = true) : Flt.div nan x y = nan := by
  rcases h with h | h <;> simp [Flt.div, h]

/-- On finite operands no operation but 0 / 0 reads the NaN it is given. -/
theorem Flt.add_finite (nan nan' x y : Flt) (hx : Flt.isFinite x = true) (hy : Flt.isFinite y = true) :
    Flt.add nan x y = Flt.add nan' x y := by
  simp [Flt.add, Flt.not_isNaN_of_isFinite hx, Flt.not_isNaN_of_isFinite hy, Flt.not_isInf_of_isFinite hx,
    Flt.not_isInf_of_isFinite hy]

theorem Flt.mul_finite (nan nan' x y : Flt) (hx : Flt.isFinite x = true) (hy : Flt.isFinite y = true) :
    Flt.mul nan x y = Flt.mul nan' x y := by
  simp [Flt.mul, Flt.not_isNaN_of_isFinite hx, Flt.not_isNaN_of_isFinite hy, Flt.not_isInf_of_isFinite hx,
    Flt.not_isInf_of_isFinite hy]

/-- A quotient by a finite nonzero value reads no NaN it is given, unless the dividend is a NaN. -/
theorem Flt.div_nonzero (nan nan' x y : Flt) (hx : Flt.isNaN x = false) (hy : Flt.isFinite y = true)
    (h0 : Flt.isZero y = false) : Flt.div nan x y = Flt.div nan' x y := by
  simp [Flt.div, hx, h0, Flt.not_isNaN_of_isFinite hy, Flt.not_isInf_of_isFinite hy]

/-- Sign and magnitude of an encoding put together. -/
theorem Flt.signed_toNat (s : Bool) (b : Nat) (h : b < 2 ^ 63) :
    (Flt.zero s ||| BitVec.ofNat 64 b).toNat = (if s then 2 ^ 63 else 0) + b := by
  have hb : b % 2 ^ 64 = b := Nat.mod_eq_of_lt (by omega)
  cases s
  · simp only [Flt.zero, Bool.false_eq_true, if_false, BitVec.toNat_or, BitVec.toNat_ofNat, hb]
    simp
  · simp only [Flt.zero, if_true, BitVec.toNat_or, BitVec.toNat_ofNat, hb]
    have := Nat.two_pow_add_eq_or_of_lt h 1
    simpa using this.symm

/-- Rounding never gives a NaN. -/
@[simp] theorem Flt.isNaN_round (s : Bool) (m : Nat) (e : Int) : Flt.isNaN (Flt.round s m e) = false := by
  unfold Flt.round
  split
  · cases s <;> decide
  · simp only
    generalize (max (e + ↑m.log2 - 52) (-1074) + 1074).toNat * 2 ^ 52 + _ = b
    split
    · cases s <;> decide
    · rename_i h
      simp only [ge_iff_le, Nat.not_le] at h
      unfold Flt.isNaN Flt.expo
      rw [Flt.signed_toNat _ _ (by omega)]
      simp only [Bool.and_eq_false_iff, beq_eq_false_iff_ne, ne_eq]
      left
      split <;> omega

end Sys2Proof.Machine
end

