-- ==== Sys2Proof/Laws/PerInstr.lean ====
section
/-! SUPPORT. Facts about every command as syntax, one lemma for each constructor. -/

namespace Sys2Proof.Laws.Encoding

/-- The fields of a command that fits the format decode to it (rules R106-R110). -/
def Statement (i : Instr) : Prop := i.WellFormed → decodeFields (encodeFields i) = .ok i

theorem nop : Statement .nop := fun _ => rfl

theorem lock : Statement .lock := fun _ => rfl

theorem dec (t : Nat) : Statement (.dec t) := by
  intro h
  simp only [Instr.WellFormed, Instr.wf, selFits, decide_eq_true_eq] at h
  simp [encodeFields, plainFields, Instr.opc, decodeFields, requireZero, Nat.mod_eq_of_lt, h]

theorem enc (t : Nat) (ssm sdi : BitVec 2) : Statement (.enc t ssm sdi) := by
  intro h
  simp only [Instr.WellFormed, Instr.wf, selFits, decide_eq_true_eq] at h
  simp [encodeFields, plainFields, Instr.opc, decodeFields, requireZero, Nat.mod_eq_of_lt, h]

theorem chkv (t : Nat) : Statement (.chkv t) := by
  intro h
  simp only [Instr.WellFormed, Instr.wf, selFits, decide_eq_true_eq] at h
  simp [encodeFields, plainFields, Instr.opc, decodeFields, requireZero, Nat.mod_eq_of_lt, h]

theorem rxw (g : Nat) : Statement (.rxw g) := by
  intro h
  simp only [Instr.WellFormed, Instr.wf, idxFits, decide_eq_true_eq] at h
  simp [encodeFields, plainFields, Instr.opc, decodeFields, requireZero, Nat.mod_eq_of_lt, h]

theorem drain (g : Nat) : Statement (.drain g) := by
  intro h
  simp only [Instr.WellFormed, Instr.wf, idxFits, decide_eq_true_eq] at h
  simp [encodeFields, plainFields, Instr.opc, decodeFields, requireZero, Nat.mod_eq_of_lt, h]

theorem tick (g : Nat) : Statement (.tick g) := by
  intro h
  simp only [Instr.WellFormed, Instr.wf, idxFits, decide_eq_true_eq] at h
  simp [encodeFields, plainFields, Instr.opc, decodeFields, requireZero, Nat.mod_eq_of_lt, h]

theorem getd (g : Nat) (label : BitVec 8) : Statement (.getd g label) := by
  intro h
  simp only [Instr.WellFormed, Instr.wf, idxFits, decide_eq_true_eq] at h
  simp [encodeFields, plainFields, Instr.opc, decodeFields, requireZero, Nat.mod_eq_of_lt, h]

theorem getw (g : Nat) (octal : BitVec 8) : Statement (.getw g octal) := by
  intro h
  simp only [Instr.WellFormed, Instr.wf, idxFits, decide_eq_true_eq] at h
  simp [encodeFields, plainFields, Instr.opc, decodeFields, requireZero, Nat.mod_eq_of_lt, h]

theorem lprst (e : Nat) : Statement (.lprst e) := by
  intro h
  simp only [Instr.WellFormed, Instr.wf, idxFits, decide_eq_true_eq] at h
  simp [encodeFields, plainFields, Instr.opc, decodeFields, requireZero, Nat.mod_eq_of_lt, h]

theorem lppre (e : Nat) : Statement (.lppre e) := by
  intro h
  simp only [Instr.WellFormed, Instr.wf, idxFits, decide_eq_true_eq] at h
  simp [encodeFields, plainFields, Instr.opc, decodeFields, requireZero, Nat.mod_eq_of_lt, h]

theorem lpstep (e : Nat) : Statement (.lpstep e) := by
  intro h
  simp only [Instr.WellFormed, Instr.wf, idxFits, decide_eq_true_eq] at h
  simp [encodeFields, plainFields, Instr.opc, decodeFields, requireZero, Nat.mod_eq_of_lt, h]

theorem lpspool (e t : Nat) (valid : Bool) : Statement (.lpspool e t valid) := by
  intro h
  simp only [Instr.WellFormed, Instr.wf, idxFits, selFits, Bool.and_eq_true, decide_eq_true_eq] at h
  cases valid <;> simp [encodeFields, plainFields, Instr.opc, decodeFields, requireZero, Nat.mod_eq_of_lt, h]

theorem dfrst (e : Nat) : Statement (.dfrst e) := by
  intro h
  simp only [Instr.WellFormed, Instr.wf, idxFits, decide_eq_true_eq] at h
  simp [encodeFields, plainFields, Instr.opc, decodeFields, requireZero, Nat.mod_eq_of_lt, h]

theorem dfpre (e : Nat) : Statement (.dfpre e) := by
  intro h
  simp only [Instr.WellFormed, Instr.wf, idxFits, decide_eq_true_eq] at h
  simp [encodeFields, plainFields, Instr.opc, decodeFields, requireZero, Nat.mod_eq_of_lt, h]

theorem dfstep (e : Nat) : Statement (.dfstep e) := by
  intro h
  simp only [Instr.WellFormed, Instr.wf, idxFits, decide_eq_true_eq] at h
  simp [encodeFields, plainFields, Instr.opc, decodeFields, requireZero, Nat.mod_eq_of_lt, h]

theorem dfspool (e t : Nat) (valid : Bool) : Statement (.dfspool e t valid) := by
  intro h
  simp only [Instr.WellFormed, Instr.wf, idxFits, selFits, Bool.and_eq_true, decide_eq_true_eq] at h
  cases valid <;> simp [encodeFields, plainFields, Instr.opc, decodeFields, requireZero, Nat.mod_eq_of_lt, h]

end Sys2Proof.Laws.Encoding
end

