-- ==== Sys2Proof/Laws/Regs.lean ====
section
/-! SUPPORT. What each named update of the state does to each register. -/

namespace Sys2Proof.Machine

/-- Reading an element that exists. -/
theorem readAt_some {α : Type} (l : List α) (k : Nat) (x : α) (f : α → Word) (h : l[k]? = some x) :
    readAt l k f = f x := by
  simp [readAt, h]

/-- Reading a list in which one element that exists is replaced. -/
theorem readAt_set {α : Type} (l : List α) (g k : Nat) (x y : α) (f : α → Word) (h : l[g]? = some x) :
    readAt (l.set g y) k f = if k = g then f y else readAt l k f := by
  have hl : g < l.length := by
    rcases Nat.lt_or_ge g l.length with h' | h'
    · exact h'
    · rw [List.getElem?_eq_none h'] at h; cases h
  unfold readAt
  by_cases hk : k = g
  · subst hk; simp [hl]
  · rw [if_neg hk, List.getElem?_set_ne (Ne.symm hk)]

/-- A word of an element that the replacement keeps. -/
theorem readAt_set_same {α : Type} (l : List α) (g k : Nat) (x y : α) (f : α → Word) (h : l[g]? = some x)
    (hf : f y = f x) : readAt (l.set g y) k f = readAt l k f := by
  rw [readAt_set l g k x y f h]
  split
  · rename_i hk; subst hk; rw [readAt_some l k x f h, hf]
  · rfl

/-- A list in which one element is changed, read elsewhere or at that element. -/
theorem readAt_modify {α : Type} (l : List α) (g k : Nat) (u : α → α) (f : α → Word) :
    readAt (l.modify g u) k f = if k = g then readAt l k (fun x => f (u x)) else readAt l k f := by
  unfold readAt
  rw [List.getElem?_modify]
  by_cases hk : k = g
  · subst hk; cases l[k]? <;> simp
  · rw [if_neg hk]; cases l[k]? <;> simp [Ne.symm hk]

/-- The registers depend on the block's fields and the level of `now_ms` only: not on a DRAIN in progress, the queues, the
agenda, the port's answer or the draws used. -/
theorem readReg_rest (s : State) (d : Option DrainProgress) (ports : List Port) (a : List Event) (p : Response) (f : Nat)
    (r : Reg) :
    readReg { s with drain := d, env := { s.env with ports := ports }, agenda := a, resp := p, free := f } r =
      readReg s r := by
  cases r <;> rfl

/-- Ending a command changes RESULT only (rules R34, R270). -/
theorem readReg_finish (s : State) (c : ResultCode) (opc : BitVec 8) (r : Reg) :
    readReg (s.finish c opc) r = if r = .result then resultWord c opc else readReg s r := by
  cases r <;> simp [readReg, paramsWord, statusWord]

/-- Replacing group g changes the registers of group g only. -/
theorem readReg_setGroup (s : State) (g : Nat) (G G' : Group) (h : s.groups[g]? = some G) (r : Reg) :
    readReg (s.setGroup g G') r =
      match r with
      | .gnum k => if k = g then G'.num.setWidth 32 else readReg s r
      | .gmaxbf k => if k = g then G'.maxbf else readReg s r
      | .gcnt k => if k = g then G'.cnt else readReg s r
      | .gstat k => if k = g then bit G'.failed else readReg s r
      | .entry k j x => if k = g then readCfg false G'.entries[j] x else readReg s r
      | .slot k j x => if k = g then readSlot G'.slots[j] x else readReg s r
      | _ => readReg s r := by
  cases r <;> simp [readReg, paramsWord, statusWord, readAt_set _ _ _ _ _ _ h]

/-- Replacing low-pass engine e changes the registers of that engine only. -/
theorem readReg_setLp (s : State) (e : Nat) (l l' : LowPass) (h : s.lp[e]? = some l) (r : Reg) :
    readReg (s.setLp e l') r =
      match r with
      | .lp k x => if k = e then readLp l' x else readReg s r
      | _ => readReg s r := by
  cases r <;> simp [readReg, paramsWord, statusWord, readAt_set _ _ _ _ _ _ h]

/-- Replacing differentiator engine e changes the registers of that engine only. -/
theorem readReg_setDf (s : State) (e : Nat) (d d' : Diff) (h : s.df[e]? = some d) (r : Reg) :
    readReg (s.setDf e d') r =
      match r with
      | .df k x => if k = e then readDf d' x else readReg s r
      | _ => readReg s r := by
  cases r <;> simp [readReg, paramsWord, statusWord, readAt_set _ _ _ _ _ _ h]

/-- Using up free draws changes no register. -/
@[simp] theorem readReg_draw (s : State) (k : Nat) (r : Reg) : readReg (s.draw k) r = readReg s r := by
  cases r <;> simp [readReg, paramsWord, statusWord]

/-- Taking a word off a queue changes no register. -/
@[simp] theorem readReg_rxDrop (s : State) (g : Nat) (r : Reg) : readReg (s.rxDrop g) r = readReg s r := by
  cases r <;> simp [readReg, paramsWord, statusWord, State.rxDrop]

end Sys2Proof.Machine
end

