-- ==== Sys2Proof/Laws/Turn.lean ====
section
/-! SUPPORT. What one step can do (rules R7, R72, R114, R300): the turns of the agents, and that every step answers a next
state. -/

namespace Sys2Proof.Machine

/-- Every command answers a next state (rules R270, R280). -/
theorem exec_answers (i : Instr) (s : State) : ∃ t, exec i s = .next t := by
  cases i <;> exact ⟨_, rfl⟩

/-- Every command word answers a next state (rules R271, R280). -/
theorem command_answers (c : Word) (s : State) : ∃ t, command c s = .next t := by
  unfold command
  split
  · exact exec_answers _ s
  · exact ⟨_, rfl⟩

/-- What the write of a command word can do: the command it decodes to, or IllegalCommand (rule R271). -/
theorem command_cases (c : Word) (s t : State) (h : command c s = .next t) :
    (∃ i, decode c = .ok i ∧ exec i s = .next t) ∨ (∃ e, decode c = .error e ∧ t = s.illegalCommand c) := by
  unfold command at h
  cases hd : decode c with
  | ok i => rw [hd] at h; exact .inl ⟨i, rfl, h⟩
  | error e =>
    rw [hd] at h
    simp only [Host.Outcome.next.injEq] at h
    exact .inr ⟨e, rfl, h.symm⟩

/-- What a step can do, by who moves. -/
theorem step_cases (s t : State) (h : step s = .next t) :
    (∃ d, s.drain = some d ∧
      ((s.agenda = [] ∨ ∃ x rest, s.agenda = .host x :: rest) ∧ t = s.drainTurn d ∨
        ∃ rest, s.agenda = .pause :: rest ∧ t = State.drainTurn { s with agenda := rest } d)) ∨
    (s.drain = none ∧ s.agenda = [] ∧ t = s) ∨
    (∃ rest, s.drain = none ∧ s.agenda = .pause :: rest ∧ t = { s with agenda := rest }) ∨
    (∃ x rest, s.drain = none ∧ s.agenda = .host x :: rest ∧
      access command x { s with agenda := rest } = .next t) ∨
    (∃ n rest, s.agenda = .now n :: rest ∧ t = { s with agenda := rest, env := { s.env with now := n } }) ∨
    (∃ g ws rest, s.agenda = .deliver g ws :: rest ∧ t = State.rxAppend { s with agenda := rest } g ws) ∨
    ∃ rest, s.agenda = .reset :: rest ∧ t = State.applyReset { s with agenda := rest } := by
  unfold step turn at h
  rcases ha : s.agenda with _ | ⟨e, rest⟩
  · rw [ha] at h
    cases hd : s.drain <;> rw [hd] at h <;> simp_all
  · rw [ha] at h
    cases e <;> simp only [State.inputMove] at h <;> cases hd : s.drain <;> (try rw [hd] at h) <;> simp_all

/-- A DRAIN in progress takes one iteration where nothing is to come, a host transaction waits, or the agents pause. -/
theorem step_drain (s : State) (d : DrainProgress) (h : s.drain = some d) :
    (s.agenda = [] ∨ (∃ x rest, s.agenda = .host x :: rest) → step s = .next (s.drainTurn d)) ∧
    ∀ rest, s.agenda = .pause :: rest → step s = .next (State.drainTurn { s with agenda := rest } d) := by
  unfold step turn
  refine ⟨?_, fun rest ha => by rw [ha, h]⟩
  rintro (ha | ⟨x, rest, ha⟩) <;> rw [ha, h]

/-- What a host transaction can do while no DRAIN runs (rules R72, R76-R78). -/
theorem access_cases (x : Txn) (s t : State) (h : access command x s = .next t) :
    t = { s with resp := .busError } ∨
    (∃ a, x = .read a 4 ∧ t = { s with resp := .data (busRead s a) }) ∨
    (∃ a v, x = .write a 4 v ∧ a ≠ cmdAddr ∧ t = { busWrite s a v with resp := .done }) ∨
    ∃ v u, x = .write cmdAddr 4 v ∧ command v s = .next u ∧ t = answerCommand u := by
  unfold access at h
  cases x with
  | read a n =>
    simp only [Host.Outcome.next.injEq] at h
    split at h
    · rename_i hok
      simp only [accessOk, Bool.and_eq_true, beq_iff_eq] at hok
      obtain ⟨rfl, -⟩ := hok
      exact .inr (.inl ⟨a, rfl, h.symm⟩)
    · exact .inl h.symm
  | write a n v =>
    simp only at h
    split at h
    · exact .inl (by simpa using h.symm)
    · rename_i hok
      simp only [accessOk, Bool.not_eq_true', Bool.not_eq_false, Bool.and_eq_true, beq_iff_eq] at hok
      obtain ⟨rfl, -⟩ := hok
      split at h
      · rename_i ha
        subst ha
        obtain ⟨u, hu⟩ := command_answers v s
        unfold commandWrite at h
        rw [hu] at h
        exact .inr (.inr (.inr ⟨v, u, rfl, hu, by simpa using h.symm⟩))
      · rename_i ha
        exact .inr (.inr (.inl ⟨a, v, rfl, ha, by simpa using h.symm⟩))

end Sys2Proof.Machine
end

