-- ==== Sys2Proof/Tests/Slice0.lean ====
section
/-! SUPPORT. Tests, with results from the spec's tables and worked examples (spec/95_test_vectors.md and the rules named),
and for every statement with hypotheses a state and operands that meet them. -/

-- One check after another: run side by side, they need more memory than the sandbox has.
set_option Elab.async false

namespace Sys2Proof.Tests

open Sys2Proof.Machine Sys2Proof.Safety Sys2Proof.Spec

/-! ### Well-formedness: an index that does not fit its field is refused (rules R106, R107) -/

theorem test_wf_idx_too_wide : ∀ i ∈ [Instr.rxw 16, .drain 16, .tick 16, .getd 16 0, .getw 16 0, .lprst 16, .lppre 16,
    .lpstep 16, .lpspool 16 0 true, .dfrst 16, .dfpre 16, .dfstep 16, .dfspool 16 0 true], i.wf = false := by decide

theorem test_wf_sel_too_wide : ∀ i ∈ [Instr.dec 256, .enc 256 0 0, .chkv 256, .lpspool 0 256 true, .dfspool 0 256 true],
    i.wf = false := by decide

theorem test_wf_widest : ∀ i ∈ [Instr.nop, .lock, .rxw 15, .dec 255, .enc 255 3 3, .lpspool 15 255 true], i.wf = true := by
  decide

/-! ### Decoding: the words of rules R108 and R113 and of section 2.1 of the vectors -/

theorem test_decode_nop : decode 0b0000000_0_00_00_00000000_0000_00000000 = .ok .nop := by decide
theorem test_decode_lock : decode 0b0000000_0_00_00_00000000_0000_00000001 = .ok .lock := by decide
theorem test_decode_dec : decode 0b0000000_0_00_00_00000010_0000_00010000 = .ok (.dec 2) := by decide
theorem test_decode_enc : decode 0b0000000_0_01_11_00000001_0000_00010001 = .ok (.enc 1 3 1) := by decide
theorem test_decode_chkv : decode 0b0000000_0_00_00_00000010_0000_00010010 = .ok (.chkv 2) := by decide
theorem test_decode_rxw : decode 0b0000000_0_00_00_00000000_0011_00100000 = .ok (.rxw 3) := by decide
theorem test_decode_drain : decode 0b0000000_0_00_00_00000000_0001_00100001 = .ok (.drain 1) := by decide
theorem test_decode_tick : decode 0b0000000_0_00_00_00000000_0010_00100010 = .ok (.tick 2) := by decide
theorem test_decode_getd : decode 0b0000000_0_00_00_10011101_0000_00100011 = .ok (.getd 0 0x9D) := by decide
theorem test_decode_getw : decode 0b0000000_0_00_00_11010000_0000_00100100 = .ok (.getw 0 0xD0) := by decide
theorem test_decode_lprst : decode 0b0000000_0_00_00_00000000_0001_00110000 = .ok (.lprst 1) := by decide
theorem test_decode_lppre : decode 0b0000000_0_00_00_00000000_0000_00110001 = .ok (.lppre 0) := by decide
theorem test_decode_lpstep : decode 0b0000000_0_00_00_00000000_0000_00110010 = .ok (.lpstep 0) := by decide
theorem test_decode_lpspool : decode 0b0000000_1_00_00_00000001_0000_00110100 = .ok (.lpspool 0 1 true) := by decide
theorem test_decode_dfrst : decode 0b0000000_0_00_00_00000000_0000_00111000 = .ok (.dfrst 0) := by decide
theorem test_decode_dfpre : decode 0b0000000_0_00_00_00000000_0000_00111001 = .ok (.dfpre 0) := by decide
theorem test_decode_dfstep : decode 0b0000000_0_00_00_00000000_0000_00111010 = .ok (.dfstep 0) := by decide
theorem test_decode_dfspool : decode 0b0000000_0_00_00_00000011_0000_00111100 = .ok (.dfspool 0 3 false) := by decide

/-- The decoder refuses the word. -/
def refuses (c : Word) : Bool :=
  match decode c with
  | .ok _ => false
  | .error _ => true

/-- The illegal words of section 2.1. -/
theorem test_decode_illegal :
    ([0x00000002, 0x000000FF, 0x00000033, 0x00000101, 0x80000001, 0x00001000, 0x02000000, 0x00400010, 0x01000020,
      0x0000F020, 0x00100023, 0x00101034, 0x02000011] : List Word).all refuses = true := by decide +kernel

/-- Byte lanes are little endian (rule R74). -/
theorem test_decode_bytes : decodeBytes [0x23, 0xB0, 0x00, 0x00, 0xAA] = .ok (.getd 0 0x0B, [0xAA]) := by decide

theorem test_table_word : decodeTableWord 32 0x00B04011 = some (.enc 4 3 2) := by decide

/-! ### A small machine in RUN mode: the entries of the vectors, time 1000 -/

/-- o250: BNR, 12 bits, 0.04395. -/
def o250 : LabelConfig :=
  { LabelConfig.reset with label := 0x15, nsig := 12, en := true, res := 0x3FA6809D495182AA }

/-- o235: BCD, 5 digits, 0.001. -/
def o235 : LabelConfig :=
  { LabelConfig.reset with label := 0xB9, msgType := .bcd, nsig := 5, en := true, res := 0x3F50624DD2F1A9FC }

/-- o272: Discrete, 19 bits. -/
def o272 : LabelConfig := { LabelConfig.reset with label := 0x5D, msgType := .discrete, ndisc := 19, en := true }

/-- o333 with bounds −3 and 5. -/
def o333 : LabelConfig :=
  { LabelConfig.reset with
    label := 0xDB, nsig := 12, en := true, minvEn := true, maxvEn := true, res := 0x3FF0000000000000
    minv := 0xC008000000000000, maxv := 0x4014000000000000 }

/-- Entry 0 of group 0, o320: BNR, 15 bits, 0.0055, min_tx 10, max_tx 25. -/
def o320 : LabelConfig :=
  { LabelConfig.reset with label := 0x0B, nsig := 15, res := 0x3F76872B020C49BA, minTx := 10, maxTx := 25 }

/-- Entry 1, o271: Discrete, 19 bits. -/
def o271 : LabelConfig :=
  { LabelConfig.reset with label := 0x9D, msgType := .discrete, ndisc := 19, minTx := 10, maxTx := 25 }

/-- Group 0: o320, o271 and a BCD entry. -/
def group0 : Group :=
  { Group.reset with
    num := 3
    maxbf := 10
    entries := ((Group.reset.entries.set 0 o320).set 1 o271).set 2 { o235 with en := false } }

/-- The small machine, with the words queued at port 0. -/
def small (queue : List Word) : State :=
  { State.reset with
    locked := true
    ct := (((State.reset.ct.set 0 o250).set 1 o235).set 2 o272).set 3 o333
    groups := [group0, Group.reset, Group.reset]
    env := ⟨1000, [⟨true, queue⟩, ⟨true, []⟩, ⟨false, []⟩]⟩ }

/-- The small machine with an empty queue. -/
def run : State := small []

/-- The same machine in CONFIG mode. -/
def config : State := { run with locked := false }

/-- A check on the next state. -/
def after (o : Outcome State) (p : State → Bool) : Bool :=
  match o with
  | .next t => p t
  | _ => false

/-- The small machine with OPA. -/
def opa (x : Flt) : State := { run with opa := x }

/-- The small machine with OPW. -/
def opw (w : Word) : State := { run with opw := w }

/-! ### One step of each command -/

/-- R130: RESULT 0. -/
theorem test_nop : after (exec .nop { config with result := 5 }) (fun t => t.result == 0) = true := by decide +kernel

/-- Section 2.2: reset locks; ERRINFO is untouched. -/
theorem test_lock : after (exec .lock State.reset) (fun t => t.result == 0x100 && readReg t .status == 1) = true := by
  decide +kernel

/-- Program 1, lines 5 to 8: a resolution of zero in CT[1]. -/
theorem test_lock_names_failure :
    after (exec .lock { config with ct := config.ct.set 1 { o235 with res := 0 } })
      (fun t => t.result == 0x103 && t.errinfo == 0x1005 && readReg t .status == 2) = true := by decide +kernel

/-- Scenario c: 29.921 with engi 30. -/
theorem test_dec_bcd :
    after (exec (.dec 1) (opw 0x0A6484B9)) (fun t => t.outa == 0x403DEBC6A7EF9DB2 && t.outi == 30 && t.outf == 0) = true := by
  decide +kernel

/-- R151: digit 10 at p_0 gives InvalidMessage. -/
theorem test_dec_bad_digit : after (exec (.dec 1) (opw 0x28B9)) (fun t => t.result == 0x1004) = true := by
  decide +kernel

/-- Scenario b: −45.0. -/
theorem test_enc_bnr :
    after (exec (.enc 0 3 1) (opa 0xC046800000000000)) (fun t => t.outw == 0x7C000115 && t.result == 0x1100) = true := by
  decide +kernel

/-- Program 1, line 24: 90.0 is clipped to 79.999. -/
theorem test_enc_clips :
    after (exec (.enc 1 0 0) (opa 0x4056800000000000)) (fun t => t.outw == 0x1E6664B9 && t.result == 0x1101) = true := by
  decide +kernel

/-- R158: the bound 5 is inclusive; the next binary64 value above it fails. -/
theorem test_chkv_at_bound : after (exec (.chkv 3) (opa 0x4014000000000000)) (fun t => t.outf == 3) = true := by
  decide +kernel

theorem test_chkv_above_bound : after (exec (.chkv 3) (opa 0x4014000000000001)) (fun t => t.outf == 0) = true := by
  decide +kernel

/-- Property 4: only slot 1 is written. -/
theorem test_rxw_routes :
    after (exec (.rxw 0) (opw 0x60000A9D)) (fun t =>
      t.result == 0x2000 && readReg t (.slot 0 1 .disc) == 2 && readReg t (.slot 0 1 .flags) == 0x1B &&
        readReg t (.slot 0 0 .raw) == 0) = true := by decide +kernel

theorem test_rxw_absent : after (exec (.rxw 0) (opw 0x6000005D)) (fun t => t.result == 0x2002) = true := by
  decide +kernel

/-- R205: an empty port reads nothing; a parity error is read and discarded. -/
theorem test_drain_empty : after (exec (.drain 0) run) (fun t => t.result == 0x2100 && t.outi == 0) = true := by
  decide +kernel

theorem test_drain_parity :
    after (exec (.drain 0) (small [0xE000019D]))
      (fun t => t.drain == some ⟨0, 1, 0⟩ && readReg t (.slot 0 1 .raw) == 0) = true := by decide +kernel

/-- Scenario e: the 9th and the 10th tick. -/
theorem test_tick_ninth :
    after (exec (.tick 0) { run with groups := [{ group0 with cnt := 8 }] })
      (fun t => t.outi == 9 && t.outf == 0) = true := by decide +kernel

theorem test_tick_tenth :
    after (exec (.tick 0) { run with groups := [{ group0 with cnt := 9 }] })
      (fun t => t.outi == 10 && t.outf == 0x40 && readReg t (.gstat 0) == 1) = true := by decide +kernel

/-- A slot of o320 received at 1000 (property 5). -/
def received (now : Word) : State :=
  { run with
    groups := [{ group0 with
      slots := group0.slots.set 0 ⟨0x67FD800B, 3, 0, 0x40568020C49BA5E3, 90, 0, 1000, true⟩ }]
    env := { run.env with now := now } }

theorem test_getd_fresh : after (exec (.getd 0 0x0B) (received 1025)) (fun t => t.outf == 0x33) = true := by
  decide +kernel

theorem test_getd_stale : after (exec (.getd 0 0x0B) (received 1026)) (fun t => t.outf == 0x23) = true := by
  decide +kernel

/-- R225: o320 is octal 0xD0; an absent label clears OUTW and OUTF. -/
theorem test_getw_usable :
    after (exec (.getw 0 0xD0) (received 1025)) (fun t => t.outw == 0x67FD800B && t.outf == 0x40) = true := by
  decide +kernel

theorem test_getw_absent :
    after (exec (.getw 0 0xFF) { received 1025 with outw := 7, outf := 7 })
      (fun t => t.outw == 0 && t.outf == 0 && t.result == 0x2402) = true := by decide +kernel

/-- A low-pass engine that has run. -/
def lpBusy : State :=
  { opa 0x3FF0000000000000 with lp := [{ LowPass.reset with prev := 0x4000000000000000, pre := true }] }

theorem test_lprst : after (exec (.lprst 0) lpBusy) (fun t => readReg t (.lp 0 .stat) == 0 && t.lp.all (·.prev == 0)) = true := by
  decide +kernel

theorem test_lppre :
    after (exec (.lppre 0) lpBusy) (fun t => t.lp.all (fun l => l.prev == 0x3FF0000000000000 && l.pre)) = true := by
  decide +kernel

/-- R242: k1 ⊕ k2 = 1.0 exactly, so a constant 1.0 stays 1.0. -/
theorem test_lpstep :
    after (exec (.lpstep 0) { lpBusy with lp := [{ LowPass.reset with prev := 0x3FF0000000000000 }] })
      (fun t => t.outa == 0x3FF0000000000000) = true := by decide +kernel

/-- Section 2.7: cycle 11 makes the engine good. -/
theorem test_lpspool_eleventh :
    after (exec (.lpspool 0 0 true)
        { lpBusy with lp := [{ LowPass.reset with prev := 0x3FF0000000000000, pre := true, spool := ⟨false, 10⟩ }] })
      (fun t => t.outf == 3 && readReg t (.lp 0 .stat) == 3 && readReg t (.lp 0 .spcnt) == 11) = true := by
  decide +kernel

/-- Section 2.7: an invalid cycle keeps `pre`. -/
theorem test_lpspool_invalid :
    after (exec (.lpspool 0 0 false) lpBusy)
      (fun t => t.outa == 0 && readReg t (.lp 0 .stat) == 1 && readReg t (.lp 0 .spcnt) == 0) = true := by decide +kernel

/-- A differentiator with pin and pout (property 8). -/
def dfBusy (pin pout x : Flt) : State := { opa x with df := [{ Diff.reset with pin := pin, pout := pout }] }

theorem test_dfrst : after (exec (.dfrst 0) (dfBusy 1 2 3)) (fun t => t.df.all (fun d => d.pin == 0 && d.pout == 0)) = true := by
  decide +kernel

theorem test_dfpre : after (exec (.dfpre 0) (dfBusy 1 2 3)) (fun t => t.df.all (fun d => d.pin == 3 && d.pout == 0)) = true := by
  decide +kernel

/-- Property 8: −179 after 179 is clamped to −180; 410 after 10 gives the substitute 2.5. -/
theorem test_dfstep_clamps :
    after (exec (.dfstep 0) (dfBusy 0x4066600000000000 0 0xC066600000000000)) (fun t => t.outa == 0xC066800000000000) = true := by
  decide +kernel

theorem test_dfstep_substitutes :
    after (exec (.dfstep 0) (dfBusy 0x4024000000000000 0x4004000000000000 0x4079A00000000000))
      (fun t => t.outa == 0x4004000000000000) = true := by decide +kernel

/-- Program 3, k = 1 and the first cycle. -/
theorem test_dfspool_second :
    after (exec (.dfspool 0 0 true)
        { dfBusy 0 0 0x4024333333333333 with df := [{ Diff.reset with pin := 0x4024000000000000, spool := ⟨false, 1⟩ }] })
      (fun t => t.outa == 0x4013FFFFFFFFFFEC && readReg t (.df 0 .spcnt) == 2 && t.outf == 0) = true := by decide +kernel

theorem test_dfspool_first :
    after (exec (.dfspool 0 0 true) (dfBusy 0 1 0x4024000000000000))
      (fun t => t.outa == 0 && t.df.all (fun d => d.pin == 0x4024000000000000 && d.pout == 0)) = true := by decide +kernel

/-! ### The host port -/

/-- Section 2.1: an illegal word sets CMDERR. -/
theorem test_illegal_word :
    after (step (State.reset.withFetchWord 32 0x02000011)) (fun t => t.result == 0x1107 && t.cmdErr) = true := by
  decide +kernel

/-- R76: a misaligned write is a bus error. -/
theorem test_bus_error :
    after (step { run with agenda := [.host (.write 0x0022 4 1)] }) (fun t => t.resp == .busError && t.opw == 0) = true := by
  decide +kernel

/-- Program 1, lines 33 and 34, and line 2 of program 2. -/
theorem test_locked_write_ignored :
    after (step { run with agenda := [.host (.write 0x0840 4 0)] }) (fun t => busRead t 0x0840 == 0x800015B9) = true := by
  decide +kernel

theorem test_config_write :
    after (step { config with agenda := [.host (.write 0x2014 4 0x3F76872B)] })
      (fun t => busRead t 0x2014 == 0x3F76872B && busRead t 0x2010 == 0x020C49BA) = true := by decide +kernel

/-- R301: reset values by address. -/
theorem test_reset_reads :
    (([0x0000, 0x0008, 0x000C, 0x0200, 0x0204, 0x040C, 0x1FFC] : List (BitVec 16)).map (busRead State.reset)) =
      [0x41343239, 0x02040113, 0, 0x4C1C3845, 0x3FE8E379, 0x40490000, 0] := by decide +kernel

/-! ### Witnesses: a state and operands that meet the hypotheses of each statement -/

/-- A quiet NaN, one that a draw may give. -/
def qnan : Flt := 0x7FF8000000000000

/-- A host write to CMD comes next. -/
def commanded (s : State) (c : Word) : State := { s with agenda := [.host (.write 0x0010 4 c)] }

theorem witness_EncodedCommandsDecodeToThemselves :
    (Instr.getd 15 0xFF).WellFormed ∧ (Instr.dec 255).WellFormed ∧ (Instr.lpspool 15 255 false).WellFormed := by decide

theorem witness_DecodedWordsAreCanonical : decode 0x01FFFF3C = .error .unusedField ∧ decode 0x010FFF3C = .ok (.dfspool 15 255 true) := by
  decide

theorem witness_LegalWordsAreThoseOfTheTable :
    (⟨"ENC", 0x11, 0xFF000FFF⟩ ∈ rows ∧ Row.Selects ⟨"ENC", 0x11, 0xFF000FFF⟩ 0x00FFF011) ∧
    decode 0x00FFF011 = .ok (.enc 255 3 3) := by
  refine ⟨⟨by simp [rows], ?_⟩, by decide⟩
  unfold Row.Selects; decide

theorem witness_StepRunsTheDecodedCommand :
    (commanded run 0x00000121).drain = none ∧ (commanded run 0x00000121).agenda = .host (.write 0x0010 4 0x121) :: [] ∧
    decode 0x00000121 = .ok (.drain 1) := by decide +kernel

theorem witness_IllegalWordsEndIllegalCommand :
    (run.drain = none ∧ Illegal 0x02000011 ∧ Illegal 0x00000101) ∧
    after (step { run with cmdErr := true, agenda := [.host (.write 0x000C 4 4)] }) (fun t => !t.cmdErr) = true ∧
    after (step { run with cmdErr := true, agenda := [.reset] }) (fun t => !t.cmdErr) = true := by
  unfold Illegal Row.Selects; decide +kernel

theorem witness_BrokenAccessesGetABusError : ¬ Legal 0x0022 4 ∧ ¬ Legal 0x0020 2 ∧ ¬ Legal 0xFFFF 4 := by
  unfold Legal; decide

theorem witness_RegistersHaveTheirAddresses :
    RegExists 4 4 4 (.slot 3 63 .lastGood) ∧ regAt 0x9FD8 = some (.slot 3 63 .lastGood) := by
  unfold RegExists; decide +kernel

/-- With CFG0 of the small machine's entries written out from the rule. -/
theorem witness_RegistersHoldTheFieldsOfTheirLayout :
    SizesOk run ∧ Mapped run (.ct 63 (.maxv .hi)) ∧ Mapped run (.entry 2 63 .cfg0) ∧ Mapped run (.slot 2 0 .flags) ∧
    cfgHolds true o250 .cfg0 = 0x15 + 12 * 2 ^ 10 + 2 ^ 31 ∧ cfgHolds false o235 .cfg0 = 0xB9 + 2 ^ 8 + 5 * 2 ^ 10 := by
  unfold Mapped RegExists; decide +kernel

theorem witness_ReadsReturnTheRegisterAndChangeNothing :
    (4 ∣ (0x001C : BitVec 16).toNat ∧ Mapped run .now ∧ addressOf .now = 0x001C) ∧ SizesOk run ∧ run.drain = none ∧ Mapped run (.slot 2 63 .lastGood) ∧ addressOf (.slot 2 63 .lastGood) = 0x7FD8 ∧
    (4 ∣ (0x8000 : BitVec 16).toNat ∧ regAt 0x8000 = some (.entry 3 0 .cfg0) ∧ ¬ Mapped run (.entry 3 0 .cfg0)) := by
  unfold Mapped RegExists; decide +kernel

theorem witness_WritesReachOneRegister :
    SizesOk config ∧ config.drain = none ∧
    (Mapped config .opd ∧ IsOperand .opd) ∧
    (Mapped config (.entry 2 63 .cfg0) ∧ IsConfig (.entry 2 63 .cfg0) ∧ config.locked = false) ∧
    Mapped config .status := by
  unfold Mapped RegExists IsOperand IsConfig; decide +kernel

theorem witness_UnmappedReservedAndReadOnlyAreIgnored :
    SizesOk run ∧ WordsOk run ∧ run.drain = none ∧ regAt 0x004C = none ∧
    (Mapped run .result ∧ ¬ IsOperand .result ∧ ¬ IsConfig .result) ∧
    (Mapped run (.ct 63 .cfg0) ∧ IsConfig (.ct 63 .cfg0) ∧ run.locked = true) := by
  unfold Mapped RegExists IsOperand IsConfig; decide +kernel

theorem witness_LockedConfigurationIsFrozen :
    (∃ t, step { run with agenda := [.host (.write 0x0800 4 0)] } = .next t) ∧ run.locked = true :=
  ⟨⟨_, rfl⟩, rfl⟩

theorem witness_ResetPutsEveryRegisterAtItsResetValue :
    ({ run with agenda := [.reset] } : State).agenda = .reset :: [] ∧ Mapped run (.df 0 (.ul .hi)) ∧
    Mapped State.reset (.slot 2 63 .raw) := by
  unfold Mapped RegExists; decide +kernel

theorem witness_EnvironmentMovesTouchOnlyTheInputs :
    ({ run with agenda := [.now 7] } : State).agenda = .now 7 :: [] ∧
    ({ run with agenda := [.deliver 1 [1, 2]] } : State).agenda = .deliver 1 [1, 2] :: [] ∧
    run.env.ports[1]? = some ⟨true, []⟩ := ⟨rfl, rfl, rfl⟩

theorem witness_CommandsNeedALockedConfiguration :
    Instr.dec 0 ≠ .nop ∧ Instr.dec 0 ≠ .lock ∧ config.locked = false := by decide +kernel

theorem witness_BadIndicesEndInvalidArgument :
    run.locked = true ∧ BadIndex run (.rxw 3) ∧ BadIndex run (.lprst 1) ∧ BadIndex run (.dfrst 1) ∧
    BadIndex run (.dec 64) ∧ BadIndex run (.dec 4) ∧ BadIndex run (.lpspool 0 4 true) := by
  have h4 : ∀ c, ¬ EntryIs run 4 c := by
    rintro c ⟨h, rfl, he⟩
    have h : (run.ct[4]'(by decide)).en = false := by decide +kernel
    exact Bool.noConfusion (h.symm.trans he)
  have h64 : ∀ c, ¬ EntryIs run 64 c := by
    rintro c ⟨h, -⟩
    exact absurd h (by decide)
  exact ⟨rfl, by simp [BadIndex, run, small], by simp [BadIndex, run, small, State.reset, State.resetWith, Config.defaultLowPass],
    by simp [BadIndex, run, small, State.reset, State.resetWith, Config.defaultDiffs], h64, h4, .inr h4⟩

theorem witness_FailedCommandsWriteOnlyResult :
    after (exec (.dec 64) run) (fun t => decide (2 ≤ t.result.toNat % 256)) = true ∧
    after (exec .lock { config with ct := config.ct.set 1 { o235 with res := 0 } })
      (fun t => decide (2 ≤ t.result.toNat % 256)) = true ∧
    after (exec (.getw 0 0xFF) run) (fun t => decide (2 ≤ t.result.toNat % 256)) = true ∧
    after (exec (.drain 3) run) (fun t => decide (2 ≤ t.result.toNat % 256) && t.drain.isNone) = true := by decide +kernel

theorem witness_NopWritesOnlyResult : (0x100 : Word).toNat % 256 = 0 ∧ (0x100 : Word) ≠ 0 := by decide

/-- The configuration of the small machine is legal. -/
theorem validated_run : Validated run := by
  refine ⟨by decide +kernel, ?_⟩
  intro G hG
  have h : G = group0 ∨ G = Group.reset := by
    simp only [run, small, List.mem_cons, List.not_mem_nil, or_false] at hG
    tauto
  rcases h with rfl | rfl
  · exact ⟨by decide, by decide +kernel, by decide +kernel⟩
  · exact ⟨by decide, fun j h => absurd h (Nat.not_lt_zero _), fun i j _ h => absurd h (Nat.not_lt_zero _)⟩

theorem witness_LockValidatesAndFreezes :
    SizesOk run ∧ run.locked = true ∧ SizesOk config ∧ config.locked = false ∧ Validated config :=
  ⟨by decide +kernel, rfl, by decide +kernel, rfl, validated_run⟩

/-- First failures of each kind: a table entry, a group's size, a group's entry, a duplicate label. -/
theorem witness_LockValidatesAndFreezes_failures :
    FirstFailure { config with ct := config.ct.set 63 { o235 with res := 0 } } 5 0 0 63 ∧
    FirstFailure { State.reset with groups := [{ Group.reset with num := 65 }] } 8 2 0 0 ∧
    FirstFailure { State.reset with groups := [{ Group.reset with num := 1 }] } 2 1 0 0 ∧
    FirstFailure
      { State.reset with
        groups := [{ Group.reset with num := 2, entries := Vector.replicate _ o271 }] } 7 1 0 1 := by
  refine ⟨.inl ⟨rfl, rfl, 63, rfl, by decide +kernel, ?_, by decide +kernel⟩,
    .inr ⟨by decide +kernel, _, rfl, by intro g' G' h; omega, .inl ⟨rfl, rfl, rfl, by decide⟩⟩,
    .inr ⟨by decide +kernel, _, rfl, by intro g' G' h; omega, .inr ⟨rfl, by decide, 0, rfl, ?_, ?_⟩⟩,
    .inr ⟨by decide +kernel, _, rfl, by intro g' G' h; omega, .inr ⟨rfl, by decide, 1, rfl, ?_, ?_⟩⟩⟩
  · exact .inr ⟨by decide +kernel, .inr (.inr (.inr (.inl
      ⟨rfl, by decide +kernel, by decide +kernel, by decide +kernel, by decide +kernel⟩)))⟩
  · exact ⟨by decide, .inl (.inr ⟨by decide +kernel, .inl ⟨rfl, by decide +kernel⟩⟩)⟩
  · intro j' r' h; exact absurd h (by simp)
  · exact ⟨by decide, .inr ⟨rfl, by decide +kernel, 0, by decide, by decide +kernel⟩⟩
  · intro j' r' h hf
    have hj : j' = 0 := Fin.ext (Nat.lt_one_iff.mp (Fin.lt_def.mp h))
    subst hj
    rcases hf with ⟨-, hf | ⟨-, -, i, hi, -⟩⟩
    · revert hf
      simp [FailsWith, o271, LabelConfig.reset]
    · exact absurd hi (by simp)

theorem witness_BnrDecodingFollowsTheLayout : LegalEntry o250 ∧ o250.msgType = .bnr := by decide +kernel

theorem witness_BcdDecodingFollowsTheLayout :
    LegalEntry o235 ∧ o235.msgType = .bcd ∧ 19 < 4 * ({ o235 with ndisc := 1 } : LabelConfig).nsig.toNat - 1 + 1 ∧
    9 < digit 5 0x28B9 0 ∧ ∀ i, i < 5 → digit 5 0x0A6484B9 i ≤ 9 := by
  decide +kernel

theorem witness_DiscreteDecodingFollowsTheLayout : o272.msgType = .discrete := rfl

theorem entry_run_0 : EntryIs run 0 o250 := ⟨by decide, by decide +kernel, rfl⟩
theorem entry_run_1 : EntryIs run 1 o235 := ⟨by decide, by decide +kernel, rfl⟩
theorem entry_run_2 : EntryIs run 2 o272 := ⟨by decide, by decide +kernel, rfl⟩

theorem witness_DecWritesTheDecodedFields :
    run.locked = true ∧ EntryIs run 2 o272 ∧ (∃ d, ∀ nan, decodeWord nan o272 0x6000025D = .ok d) ∧
    EntryIs run 1 o235 ∧ (∀ nan, decodeWord nan o235 0x28B9 = .error .invalidMessage) :=
  ⟨rfl, entry_run_2, ⟨_, fun _ => rfl⟩, entry_run_1, fun _ => rfl⟩

theorem witness_BnrEncodingFollowsTheLayout :
    LegalEntry o250 ∧ o250.msgType = .bnr ∧ Flt.isNaN qnan = true ∧
    clampI32 (Flt.roundHalfAway (Flt.div qnan 0xC069000000000000 o250.res)) < -2 ^ 12 ∧
    2 ^ 12 - 1 < clampI32 (Flt.roundHalfAway (Flt.div qnan 0x7FF0000000000000 o250.res)) ∧
    clampI32 (Flt.roundHalfAway (Flt.div qnan 0xC066800000000000 o250.res)) = -2 ^ 12 := by decide +kernel

theorem witness_BcdEncodingFollowsTheLayout :
    LegalEntry o235 ∧ o235.msgType = .bcd ∧ Flt.lt 0xBFF0000000000000 0 = true ∧
    Flt.isNaN 0x8000000000000000 = false ∧ Flt.lt 0x8000000000000000 0 = false ∧
    8 * 10 ^ 4 - 1 < clampI32 (Flt.roundHalfAway (Flt.div qnan 0x4056800000000000 o235.res)) ∧
    clampI32 (Flt.roundHalfAway (Flt.div qnan 0x403DEBC6A7EF9DB2 o235.res)) = 29921 := by decide +kernel

theorem witness_DiscreteEncodingIsLeftJustified : LegalEntry o272 ∧ o272.msgType = .discrete ∧ o272.ndisc = 19 := by
  decide +kernel

theorem witness_EncWritesTheEncodedWord :
    run.locked = true ∧ EntryIs run 2 o272 ∧
    (∃ w, ∀ nan, encodeWord nan o272 run.opa run.opd 3 2 = .ok ⟨w, false⟩) ∧ EntryIs run 0 o250 ∧
    (∀ nan, encodeWord nan o250 qnan run.opd 3 2 = .error .invalidMsgData) :=
  ⟨rfl, entry_run_2, ⟨_, fun _ => rfl⟩, entry_run_0, fun _ => rfl⟩

theorem witness_ChkvReportsValidity :
    run.locked = true ∧ EntryIs run 0 o250 ∧ ValiditySsm 0 o250 3 ∧ ValiditySsm qnan o250 0 ∧
    ValiditySsm 0x4014000000000001 o333 0 ∧ ValiditySsm 0x4014000000000000 o333 3 := by
  refine ⟨rfl, entry_run_0, ?_, ?_, ?_, ?_⟩ <;> simp only [ValiditySsm] <;> decide +kernel

theorem witness_BnrWordsRoundTrip :
    LegalEntry o250 ∧ o250.msgType = .bnr ∧ Flt.isNaN 0 = false ∧ o250.ndisc = 0 ∧
    (LegalEntry { o250 with ndisc := 6 } ∧ 10 + 6 ≤ 28 - o250.nsig.toNat) := by decide +kernel

theorem witness_BcdWordsRoundTrip :
    LegalEntry o235 ∧ o235.msgType = .bcd ∧ Flt.isNaN 0 = false ∧ Flt.lt 0 0 = false := by decide +kernel

theorem value_zero : value 0 = 0 := by simp [value]
theorem value_negZero : value 0x8000000000000000 = 0 := by simp [value]

theorem witness_ArithmeticIsCorrectlyRounded :
    FiniteValue 0 ∧ FiniteValue 0x8000000000000000 ∧ value 0 + value 0x8000000000000000 = 0 ∧
    value 0 * value 0x8000000000000000 = 0 ∧ value 0x7FEFFFFFFFFFFFFF - value 0x7FEFFFFFFFFFFFFF = 0 ∧
    (FiniteValue 0x7FEFFFFFFFFFFFFF ∧ value 0x7FEFFFFFFFFFFFFF ≠ 0) ∧
    |(2 ^ 53 : Int)| ≤ 2 ^ 53 := by
  refine ⟨by unfold FiniteValue; decide, by unfold FiniteValue; decide, ?_, ?_, sub_self _,
    ⟨by unfold FiniteValue; decide, ?_⟩, by norm_num⟩
  · rw [value_zero, value_negZero, add_zero]
  · rw [value_zero, zero_mul]
  · simp [value]
    norm_num

theorem witness_SpecialOperandsFollowIeee754 :
    Flt.isNaN qnan = true ∧ Flt.isInf 0x7FF0000000000000 = true ∧ Flt.isInf 0xFFF0000000000000 = true ∧
    (FiniteValue 0 ∧ value 0 = 0) ∧ (FiniteValue 1 ∧ value 1 ≠ 0) := by
  refine ⟨by decide, by decide, by decide, ⟨by unfold FiniteValue; decide, value_zero⟩,
    ⟨by unfold FiniteValue; decide, ?_⟩⟩
  simp [value]

theorem witness_ComparisonIsTheRealOrder :
    FiniteValue 0x7FEFFFFFFFFFFFFF ∧ FiniteValue 0x8000000000000000 ∧ Flt.isNaN qnan = true ∧
    Flt.isInf 0x7FF0000000000000 = true ∧ Flt.isInf 0xFFF0000000000000 = true := by
  unfold FiniteValue; decide

theorem witness_RoundHalfAwayIsTheNearestInteger : FiniteValue 0x3FE0000000000000 ∧ (-2147483649 : Int) < -2147483648 := by
  unfold FiniteValue; decide

theorem group_run : run.groups[0]? = some group0 := rfl

theorem witness_RxwRoutesTheWordToItsSlot :
    run.locked = true ∧ run.groups[0]? = some group0 ∧ Absent group0 ((0x5D : Word).setWidth 8) ∧
    (Finds group0 ((0x28B9 : Word).setWidth 8) 2 ∧
      ∀ nan, decodeWord nan group0.entries[2] 0x28B9 = .error .invalidMessage) ∧
    (Finds group0 ((0x60000A9D : Word).setWidth 8) 1 ∧
      (∃ d, ∀ nan, decodeWord nan group0.entries[1] 0x60000A9D = .ok d) ∧
      IsBit ((10 : Word).toNat ≤ elapsedMs 1000 990) 1 ∧ IsBit ((10 : Word).toNat ≤ elapsedMs 3 (-6)) 0) := by
  refine ⟨rfl, rfl, ?_, ⟨?_, fun _ => rfl⟩, ?_, ⟨_, fun _ => rfl⟩, ?_, ?_⟩
  · unfold Absent; decide +kernel
  · unfold Finds; decide +kernel
  · unfold Finds; decide +kernel
  · left; decide
  · right; decide

/-- A slot of the small machine is changed by RXW, by DRAIN, by an iteration of DRAIN and by a reset. -/
theorem witness_OnlyReceiptsWriteSlots :
    after (step (commanded (opw 0x60000A9D) 0x20)) (fun t => readReg t (.slot 0 1 .raw) != 0) = true ∧
    after (step (commanded (small [0x60000A9D]) 0x21)) (fun t => readReg t (.slot 0 1 .raw) != 0) = true ∧
    after (step { small [0x60000A9D] with drain := some ⟨0, 1, 1⟩ }) (fun t => readReg t (.slot 0 1 .raw) != 0) = true ∧
    after (step { received 1025 with agenda := [.reset] }) (fun t => readReg t (.slot 0 0 .raw) == 0) = true := by
  decide +kernel

theorem witness_DrainOfAnEmptyPortReadsNothing :
    run.locked = true ∧ 2 < run.groups.length ∧ run.drain = none ∧
    (run.env.ports[1]? = some ⟨true, []⟩) ∧ run.env.ports[2]? = some ⟨false, []⟩ := by decide +kernel

theorem witness_DrainTakesOneWordAnIteration :
    (small [0x60000A9D]).locked = true ∧ (small [0x60000A9D]).groups[0]? = some group0 ∧
    (small [0x60000A9D]).env.ports[0]? = some ⟨true, [0x60000A9D]⟩ ∧
    (0xE000019D : Word).getLsbD 31 = true ∧
    ((0x5D : Word).getLsbD 31 = false ∧ Absent group0 ((0x5D : Word).setWidth 8)) ∧
    (Finds group0 ((0x28B9 : Word).setWidth 8) 2 ∧
      ∀ nan, decodeWord nan group0.entries[2] 0x28B9 = .error .invalidMessage) ∧
    (0x60000A9D : Word).getLsbD 31 = false ∧ Finds group0 ((0x60000A9D : Word).setWidth 8) 1 ∧
    (∃ d, ∀ nan, decodeWord nan group0.entries[1] 0x60000A9D = .ok d) ∧
    IsBit (group0.entries[1].minTx.toNat ≤ elapsedMs 1000 group0.slots[1].lastGood) 1 := by
  refine ⟨rfl, rfl, rfl, by decide, ⟨by decide, ?_⟩, ⟨?_, fun _ => rfl⟩, by decide, ?_, ⟨_, fun _ => rfl⟩, ?_⟩
  · unfold Absent; decide +kernel
  · unfold Finds; decide +kernel
  · unfold Finds; decide +kernel
  · left; decide +kernel

/-- A word with an effect, a later iteration at the 31st and the 32nd word for each move of the block, and a port that is
not ready. -/
theorem witness_DrainTakesOneWordAnIteration_later :
    WordEffect run 0 group0 0xE000019D [] 0 ∧ (∃ ws, WordEffect run 0 group0 0x60000A9D ws 1) ∧
    (∀ n ∈ [1, 30, 31], ({ run with drain := some ⟨0, n, 1⟩ } : State).drain = some ⟨0, n, 1⟩ ∧ n < 32) ∧
    (BlockMoves run [] ∧ BlockMoves (commanded run 1) (commanded run 1).agenda ∧
      BlockMoves { run with agenda := [.pause, .reset] } [.reset]) ∧ ¬ PortReady run 1 ∧ ¬ PortReady run 2 := by
  refine ⟨.inl ⟨rfl, rfl, .inl (by decide)⟩,
    ⟨_, .inr ⟨by decide, rfl, 1, _, 1, ?_, fun _ => rfl, .inl ⟨by decide +kernel, rfl⟩, rfl⟩⟩, by simp,
    ⟨.inl ⟨rfl, rfl⟩, .inr (.inl ⟨_, _, rfl, rfl⟩), .inr (.inr rfl)⟩, ?_, ?_⟩
  · unfold Finds; decide +kernel
  · rintro ⟨p, hp, -, hq⟩
    obtain rfl := Option.some.inj hp
    exact hq rfl
  · rintro ⟨p, hp, hr, -⟩
    obtain rfl := Option.some.inj hp
    exact Bool.noConfusion hr

theorem witness_DrainRunsToItsEnd :
    (small [0x60000A9D]).locked = true ∧ (small [0x60000A9D]).drain = none ∧ (small [0x60000A9D]).agenda = [] ∧
    (small [0x60000A9D]).groups[0]? = some group0 ∧
    (small [0x60000A9D]).env.ports[0]? = some ⟨true, [0x60000A9D]⟩ := ⟨rfl, rfl, rfl, rfl, rfl⟩

theorem witness_HostWaitsWhileDrainRuns :
    ({ commanded run 0 with drain := some ⟨0, 31, 0⟩ } : State).drain = some ⟨0, 31, 0⟩ ∧ 31 < 32 ∧
    ({ commanded run 0 with drain := some ⟨0, 31, 0⟩ } : State).agenda = .host (.write 0x0010 4 0) :: [] ∧
    (PortReady (small [0x60000A9D]) 0 ∧ 30 < 31) :=
  ⟨rfl, by decide, rfl, ⟨⟨_, rfl, rfl, by simp⟩, by decide⟩⟩

theorem witness_TickCountsAndReportsFailure :
    run.locked = true ∧ run.groups[0]? = some group0 ∧
    IsBit (group0.maxbf.toNat ≤ 10) 1 ∧ IsBit (group0.maxbf.toNat ≤ 9) 0 ∧
    2 ^ 32 - 1 = min ((BitVec.allOnes 32).toNat + 1) (2 ^ 32 - 1) := by
  refine ⟨rfl, rfl, .inl ?_, .inr ?_, ?_⟩ <;> decide

theorem witness_TicksCountUpToFailure : run.locked = true ∧ run.groups[0]? = some group0 ∧ group0.cnt = 0 := ⟨rfl, rfl, rfl⟩

theorem witness_GetdReturnsTheSlotAndItsFreshness :
    run.locked = true ∧ run.groups[0]? = some group0 ∧ Absent group0 0xFF ∧ Finds group0 0x0B 0 ∧
    IsBit (elapsedMs 1025 1000 ≤ o320.maxTx.toNat) 1 ∧ IsBit (elapsedMs 1026 1000 ≤ o320.maxTx.toNat) 0 := by
  refine ⟨rfl, rfl, ?_, ?_, .inl ?_, .inr ?_⟩
  · unfold Absent; decide +kernel
  · unfold Finds; decide +kernel
  · decide
  · decide

theorem witness_GetwReturnsTheWordAndItsUsability :
    run.locked = true ∧ run.groups[0]? = some group0 ∧
    (∀ k, k < 8 → (0x0B : BitVec 8).getLsbD k = (0xD0 : BitVec 8).getLsbD (7 - k)) ∧
    Absent group0 0xFF ∧ Finds group0 0x0B 0 ∧
    IsBit (elapsedMs 1025 1000 ≤ o320.maxTx.toNat ∧ true = true) 1 ∧
    IsBit (elapsedMs 1025 1000 ≤ o320.maxTx.toNat ∧ false = true) 0 := by
  refine ⟨rfl, rfl, by decide, ?_, ?_, .inl ?_, .inr ?_⟩
  · unfold Absent; decide +kernel
  · unfold Finds; decide +kernel
  · decide
  · decide

theorem witness_FreshnessEndsAtMaxTx :
    (opw 0x60000A9D).locked = true ∧ (opw 0x60000A9D).groups[0]? = some group0 ∧
    Finds group0 ((0x60000A9D : Word).setWidth 8) 1 ∧
    (∃ d, ∀ nan, decodeWord nan group0.entries[1] 0x60000A9D = .ok d) := by
  refine ⟨rfl, rfl, ?_, ⟨_, fun _ => rfl⟩⟩
  unfold Finds; decide +kernel

theorem witness_FastWordsAreBabbling :
    (opw 0x60000A9D).locked = true ∧ (opw 0x60000A9D).groups[0]? = some group0 ∧
    Finds group0 ((0x60000A9D : Word).setWidth 8) 1 ∧
    (∃ d, ∀ nan, decodeWord nan group0.entries[1] 0x60000A9D = .ok d) ∧
    (0x9D : Word).setWidth 8 = (0x60000A9D : Word).setWidth 8 ∧
    (∃ d, ∀ nan, decodeWord nan group0.entries[1] 0x9D = .ok d) := by
  refine ⟨rfl, rfl, ?_, ⟨_, fun _ => rfl⟩, by decide, ⟨_, fun _ => rfl⟩⟩
  unfold Finds; decide +kernel

theorem witness_EngineResetAndPreload :
    run.locked = true ∧ run.lp[0]? = some LowPass.reset ∧ run.df[0]? = some Diff.reset := ⟨rfl, rfl, rfl⟩

theorem witness_LowPassStep :
    run.locked = true ∧ run.lp[0]? = some LowPass.reset ∧ Flt.isNaN (opa qnan).opa = true := ⟨rfl, rfl, by decide⟩

/-- The four outputs of a differentiator step: substitute, both limits, the scaled difference. -/
theorem witness_DifferentiatorStep :
    run.locked = true ∧ run.df[0]? = some Diff.reset ∧ AllNaN (fun _ => qnan) ∧
    DfOutput (fun _ => qnan) { Diff.reset with pout := 1 } 0x4079A00000000000 1 ∧
    DfOutput (fun _ => qnan) Diff.reset 0xC024000000000000 0xC066800000000000 ∧
    DfOutput (fun _ => qnan) Diff.reset 0x4024000000000000 0x4066800000000000 ∧
    DfOutput (fun _ => qnan) Diff.reset 0 0 ∧ DfOutput (fun _ => qnan) Diff.reset qnan qnan := by
  refine ⟨rfl, rfl, fun _ => show Flt.isNaN qnan = true by decide, ?_, ?_, ?_, ?_, ?_⟩ <;> simp only [DfOutput] <;> decide +kernel

/-- With the row of spec/95_test_vectors.md for a sample of 1.0 after a NaN: it becomes the previous input. -/
theorem witness_NanReachesBothFiltersAndASpoolRestartRecovers :
    run.locked = true ∧ run.lp[0]? = some LowPass.reset ∧ run.df[0]? = some Diff.reset ∧
    Flt.isNaN ((fun _ => qnan : Nat → Flt) 1) = true ∧ EntryIs run 0 o250 ∧
    after (exec (.dfstep 0) { opa 0x3FF0000000000000 with df := [{ Diff.reset with pin := qnan, pout := qnan }] })
      (fun t => busRead t 0x0434 == 0x3FF00000) = true :=
  ⟨rfl, rfl, rfl, show Flt.isNaN qnan = true by decide, entry_run_0, by decide +kernel⟩

theorem witness_LowPassSpoolCycle :
    run.locked = true ∧ run.lp[0]? = some LowPass.reset ∧ EntryIs run 0 o250 ∧
    (LowPass.reset.spool.good = false ∧ LowPass.reset.spool.count = 0) ∧ ValiditySsm 0 o250 3 := by
  refine ⟨rfl, rfl, entry_run_0, ⟨rfl, rfl⟩, ?_⟩
  simp only [ValiditySsm]; decide +kernel

/-- An engine at count 1, 9, 10 and at the last count before the wrap, and a good one. -/
theorem witness_LowPassSpoolCycle_counts :
    ∀ sp ∈ [(⟨false, 1⟩ : Spool), ⟨false, 9⟩, ⟨false, 10⟩, ⟨false, 0xFFFFFFFE⟩, ⟨true, 11⟩],
      ({ run with lp := [{ LowPass.reset with spool := sp }] } : State).lp[0]? =
        some { LowPass.reset with spool := sp } := by
  intro sp _; rfl

theorem witness_DifferentiatorSpoolCycle :
    run.locked = true ∧ run.df[0]? = some Diff.reset ∧ EntryIs run 0 o250 ∧
    (Diff.reset.spool.good = false ∧ Diff.reset.spool.count = 0) ∧ DfOutput (fun _ => qnan) Diff.reset 0 0 ∧
    ValiditySsm 0 o250 3 := by
  refine ⟨rfl, rfl, entry_run_0, ⟨rfl, rfl⟩, ?_, ?_⟩
  · simp only [DfOutput]; decide +kernel
  · simp only [ValiditySsm]; decide +kernel

theorem witness_DifferentiatorSpoolCycle_counts :
    ∀ sp ∈ [(⟨false, 1⟩ : Spool), ⟨false, 9⟩, ⟨false, 10⟩, ⟨false, 0xFFFFFFFE⟩, ⟨true, 11⟩],
      ({ run with df := [{ Diff.reset with spool := sp }] } : State).df[0]? = some { Diff.reset with spool := sp } := by
  intro sp _; rfl

theorem witness_ElevenValidCyclesMakeAnEngineGood :
    run.locked = true ∧ run.lp[0]? = some LowPass.reset ∧ EntryIs run 0 o250 ∧ LowPass.reset.spool = ⟨false, 0⟩ ∧
    run.df[0]? = some Diff.reset ∧ Diff.reset.spool = ⟨false, 0⟩ := ⟨rfl, rfl, entry_run_0, rfl, rfl, rfl⟩

theorem witness_DifferentiatorOutputIsBounded :
    run.locked = true ∧ run.df[0]? = some Diff.reset ∧ FiniteValue run.opa ∧ FiniteValue Diff.reset.pin ∧
    FiniteValue Diff.reset.fs ∧ value Diff.reset.fs ≠ 0 ∧
    Flt.isNaN Diff.reset.ll = false ∧ Flt.isNaN Diff.reset.ul = false ∧ Flt.isNaN Diff.reset.pout = false ∧
    Flt.lt Diff.reset.ul Diff.reset.ll = false ∧ Flt.lt Diff.reset.pout Diff.reset.ll = false ∧
    Flt.lt Diff.reset.ul Diff.reset.pout = false := by
  refine ⟨rfl, rfl, by unfold FiniteValue; decide, by unfold FiniteValue; decide, by unfold FiniteValue; decide, ?_,
    by decide, by decide, by decide, by decide, by decide, by decide⟩
  simp [value, Diff.reset, Config.dfFs]
  norm_num

/-- A state that meets the invariant in RUN mode with a DRAIN in progress, and its next state. -/
theorem witness_EveryStepKeepsTheInvariant :
    Inv { small [0x60000A9D] with drain := some ⟨0, 31, 31⟩ } ∧
    ∃ t, step { small [0x60000A9D] with drain := some ⟨0, 31, 31⟩ } = .next t := by
  refine ⟨⟨by decide +kernel, fun _ => ⟨validated_run, rfl⟩, by decide +kernel, by decide +kernel, by decide +kernel, ?_,
    fun h => Bool.noConfusion h⟩, ⟨_, rfl⟩⟩
  intro d hd
  obtain rfl := Option.some.inj hd
  decide +kernel

end Sys2Proof.Tests
end

section
/-! PROOFS. Binary64 arithmetic (rules R12, R13): an encoding without its sign counts the magnitudes in order, so
rounding, comparison and overflow are statements about neighbours in that order. -/

namespace Sys2Proof.Machine

open Sys2Proof.Spec

/-! ### Magnitudes in the order of their encodings -/

/-- The encoding without its sign bit. -/
def Flt.magBits (x : Flt) : ℕ := x.toNat % 2 ^ 63

/-- The sign-less encoding of an infinity. -/
def Flt.infBits : ℕ := 2047 * 2 ^ 52

/-- The value of the sign-less encoding `b`, the exponent range taken as unbounded: infinity's is 2^1024. -/
def Flt.magnitude (b : ℕ) : ℚ :=
  ((if b / 2 ^ 52 = 0 then b % 2 ^ 52 else b % 2 ^ 52 + 2 ^ 52 : ℕ) : ℚ) * 2 ^ ((max (b / 2 ^ 52) 1 : ℕ) - 1075 : ℤ)

/-- A significand of at most 53 bits (2^53 carries into the exponent) stands `k` binades above the subnormals' unit. -/
theorem Flt.magnitude_eq {k sig : ℕ} (hsig : sig ≤ 2 ^ 53) (hk : k = 0 ∨ 2 ^ 52 ≤ sig) :
    Flt.magnitude (k * 2 ^ 52 + sig) = sig * 2 ^ (k - 1074 : ℤ) := by
  unfold Flt.magnitude
  rcases Nat.lt_or_ge sig (2 ^ 52) with hlow | hlow
  · obtain rfl : k = 0 := by omega
    have hdiv : (0 * 2 ^ 52 + sig) / 2 ^ 52 = 0 := by omega
    have hmod : (0 * 2 ^ 52 + sig) % 2 ^ 52 = sig := by omega
    rw [hdiv, hmod]
    norm_num
  rcases Nat.lt_or_ge sig (2 ^ 53) with hcarry | hcarry
  · have hdiv : (k * 2 ^ 52 + sig) / 2 ^ 52 = k + 1 := by omega
    have hmod : (k * 2 ^ 52 + sig) % 2 ^ 52 + 2 ^ 52 = sig := by omega
    rw [hdiv, hmod, if_neg (by omega), max_eq_left (by omega)]
    congr 2
    push_cast
    ring
  · obtain rfl : sig = 2 ^ 53 := by omega
    have hdiv : (k * 2 ^ 52 + 2 ^ 53) / 2 ^ 52 = k + 2 := by omega
    have hmod : (k * 2 ^ 52 + 2 ^ 53) % 2 ^ 52 = 0 := by omega
    have hexp : ((k + 2 : ℕ) - 1075 : ℤ) = (k - 1074) + 1 := by push_cast; ring
    rw [hdiv, hmod, if_neg (by omega), max_eq_left (by omega), hexp, zpow_add_one₀ two_ne_zero]
    push_cast
    ring

/-- Every sign-less encoding has the shape `magnitude_eq` speaks of. -/
theorem Flt.exists_scale (b : ℕ) : ∃ k sig, b = k * 2 ^ 52 + sig ∧ sig < 2 ^ 53 ∧ (k = 0 ∨ 2 ^ 52 ≤ sig) :=
  ⟨b / 2 ^ 52 - 1, b - (b / 2 ^ 52 - 1) * 2 ^ 52, by omega, by omega, by omega⟩

theorem Flt.magnitude_strictMono : StrictMono Flt.magnitude := by
  refine strictMono_nat_of_lt_succ fun b => ?_
  obtain ⟨k, sig, rfl, hsig, hk⟩ := Flt.exists_scale b
  rw [Flt.magnitude_eq hsig.le hk, add_assoc, Flt.magnitude_eq hsig (by omega)]
  gcongr
  omega

@[simp] theorem Flt.magnitude_zero : Flt.magnitude 0 = 0 := by simp [Flt.magnitude]

theorem Flt.magnitude_nonneg (b : ℕ) : 0 ≤ Flt.magnitude b := by
  rw [← Flt.magnitude_zero]
  exact Flt.magnitude_strictMono.monotone b.zero_le

/-- The largest finite value is half a unit of 2^971 below the overflow threshold, and the infinity half a unit above. -/
theorem Flt.magnitude_infBits_pred : Flt.magnitude (Flt.infBits - 1) = 2 ^ 1024 - 2 ^ 970 - 2 ^ 970 := by
  have h : Flt.magnitude (2045 * 2 ^ 52 + (2 ^ 53 - 1)) = _ := Flt.magnitude_eq (by norm_num) (by norm_num)
  have he : ((2045 : ℕ) - 1074 : ℤ) = (971 : ℕ) := by norm_num
  have hp : (2 : ℚ) ^ 1024 = 2 ^ 53 * 2 ^ 971 := by rw [← pow_add]
  have hp' : (2 : ℚ) ^ 971 = 2 * 2 ^ 970 := by rw [← pow_succ']
  rw [he, zpow_natCast] at h
  rw [show Flt.infBits - 1 = 2045 * 2 ^ 52 + (2 ^ 53 - 1) by decide, h, hp, hp']
  generalize (2 : ℚ) ^ 970 = u
  push_cast
  ring

theorem Flt.magnitude_infBits : Flt.magnitude Flt.infBits = 2 ^ 1024 := by
  have h : Flt.magnitude (2046 * 2 ^ 52 + 2 ^ 52) = _ := Flt.magnitude_eq (by norm_num) (by norm_num)
  have he : ((2046 : ℕ) - 1074 : ℤ) = (972 : ℕ) := by norm_num
  rw [he, zpow_natCast, Nat.cast_pow, Nat.cast_ofNat, ← pow_add] at h
  exact h

/-- Every integer of at most 53 bits times a power of two from the subnormals' unit on is a magnitude. -/
theorem Flt.exists_magnitude (k : ℕ) : ∀ m : ℕ, m ≤ 2 ^ 53 → ∃ b, Flt.magnitude b = m * 2 ^ (k - 1074 : ℤ) := by
  induction k with
  | zero => exact fun m hm => ⟨_, Flt.magnitude_eq (k := 0) hm (.inl rfl)⟩
  | succ k ih =>
    intro m hm
    rcases Nat.lt_or_ge m (2 ^ 52) with hlow | hlow
    · obtain ⟨b, hb⟩ := ih (2 * m) (by omega)
      have hexp : ((k + 1 : ℕ) - 1074 : ℤ) = (k - 1074) + 1 := by push_cast; ring
      refine ⟨b, ?_⟩
      rw [hb, hexp, zpow_add_one₀ two_ne_zero]
      push_cast
      ring
    · exact ⟨_, Flt.magnitude_eq hm (.inr hlow)⟩

/-! ### The encoding's fields -/

theorem Flt.sign_eq_true_iff (x : Flt) : Flt.sign x = true ↔ Negative x := by
  unfold Flt.sign Negative
  rw [← BitVec.msb_eq_getLsbD_last x, BitVec.msb_eq_decide]
  simp

theorem Flt.finiteValue_iff (x : Flt) : FiniteValue x ↔ Flt.magBits x < Flt.infBits := by
  unfold FiniteValue Flt.magBits Flt.infBits
  omega

theorem Flt.isFinite_iff (x : Flt) : Flt.isFinite x = true ↔ FiniteValue x := by
  simp [Flt.isFinite, Flt.expo, FiniteValue]

theorem Flt.isInf_iff (x : Flt) : Flt.isInf x = true ↔ Flt.magBits x = Flt.infBits := by
  simp only [Flt.isInf, Flt.expo, Flt.frac, Flt.magBits, Flt.infBits, Bool.and_eq_true, beq_iff_eq]
  omega

theorem Flt.isZero_iff (x : Flt) : Flt.isZero x = true ↔ Flt.magBits x = 0 := by
  simp only [Flt.isZero, Flt.expo, Flt.frac, Flt.magBits, Bool.and_eq_true, beq_iff_eq]
  omega

/-- The factor of a sign bit. -/
def Flt.sgn (s : Bool) : ℚ := if s then -1 else 1

@[simp] theorem Flt.sgn_mul_self (s : Bool) : Flt.sgn s * Flt.sgn s = 1 := by cases s <;> simp [Flt.sgn]

@[simp] theorem Flt.sgn_not (s : Bool) : Flt.sgn (!s) = -Flt.sgn s := by cases s <;> simp [Flt.sgn]

@[simp] theorem Flt.abs_sgn (s : Bool) : |Flt.sgn s| = 1 := by cases s <;> simp [Flt.sgn]

theorem Flt.sgn_ne_zero (s : Bool) : Flt.sgn s ≠ 0 := by cases s <;> simp [Flt.sgn]

theorem Flt.sgn_bne (s t : Bool) : Flt.sgn (s != t) = Flt.sgn s * Flt.sgn t := by
  cases s <;> cases t <;> simp [Flt.sgn]

theorem Flt.value_eq (x : Flt) : value x = Flt.sgn (Flt.sign x) * Flt.magnitude (Flt.magBits x) := by
  have hdiv : Flt.magBits x / 2 ^ 52 = x.toNat / 2 ^ 52 % 2 ^ 11 := by unfold Flt.magBits; omega
  have hmod : Flt.magBits x % 2 ^ 52 = x.toNat % 2 ^ 52 := by unfold Flt.magBits; omega
  have hm : (if x.toNat / 2 ^ 52 % 2 ^ 11 = 0 then ((x.toNat % 2 ^ 52 : ℕ) : ℚ) * 2 ^ (-1074 : ℤ)
      else (2 ^ 52 + (x.toNat % 2 ^ 52 : ℕ)) * 2 ^ (((x.toNat / 2 ^ 52 % 2 ^ 11 : ℕ) : ℤ) - 1075)) =
      Flt.magnitude (Flt.magBits x) := by
    unfold Flt.magnitude
    rw [hdiv, hmod]
    split
    case isTrue h =>
      rw [h]
      norm_num
    case isFalse h =>
      rw [max_eq_left (by omega)]
      push_cast
      ring
  unfold value
  simp only [hm]
  cases hs : Flt.sign x
  · rw [← Bool.not_eq_true, Flt.sign_eq_true_iff, Negative, not_le] at hs
    rw [if_pos hs, Flt.sgn, if_neg Bool.false_ne_true, one_mul]
  · rw [Flt.sign_eq_true_iff, Negative] at hs
    rw [if_neg (not_lt.mpr hs), Flt.sgn, if_pos rfl, neg_one_mul]

/-- The integer significand and its exponent give the magnitude. -/
theorem Flt.magnitude_magBits (x : Flt) : Flt.magnitude (Flt.magBits x) = Flt.mant x * 2 ^ Flt.exp x := by
  have hdiv : Flt.magBits x / 2 ^ 52 = Flt.expo x := by unfold Flt.magBits Flt.expo; omega
  have hmod : Flt.magBits x % 2 ^ 52 = Flt.frac x := by unfold Flt.magBits Flt.frac; omega
  rw [Flt.magnitude, hdiv, hmod, Flt.mant, Flt.exp]

theorem Flt.abs_value (x : Flt) : |value x| = Flt.magnitude (Flt.magBits x) := by
  rw [Flt.value_eq, abs_mul, Flt.abs_sgn, one_mul, abs_of_nonneg (Flt.magnitude_nonneg _)]

theorem Flt.value_eq_zero_iff (x : Flt) : value x = 0 ↔ Flt.isZero x = true := by
  rw [Flt.isZero_iff, ← abs_eq_zero, Flt.abs_value, ← Flt.magnitude_zero, Flt.magnitude_strictMono.injective.eq_iff]

/-! ### The constants and the sign flip -/

/-- The encoding of a sign and a magnitude, an infinity from its encoding on. -/
def Flt.pack (s : Bool) (b : ℕ) : Flt := if b ≥ Flt.infBits then Flt.inf s else Flt.zero s ||| BitVec.ofNat 64 b

theorem Flt.toNat_pack_of_lt {s : Bool} {b : ℕ} (h : b < Flt.infBits) :
    (Flt.pack s b).toNat = (if s then 2 ^ 63 else 0) + b := by
  rw [Flt.pack, if_neg (not_le.mpr h), Flt.signed_toNat s b (by unfold Flt.infBits at h; omega)]

@[simp] theorem Flt.pack_zero (s : Bool) : Flt.pack s 0 = Flt.zero s := by
  rw [Flt.pack, if_neg (by decide)]
  exact BitVec.or_zero

theorem Flt.sign_pack (s : Bool) (b : ℕ) : Flt.sign (Flt.pack s b) = s := by
  rcases Nat.lt_or_ge b Flt.infBits with h | h
  · rw [Bool.eq_iff_iff, Flt.sign_eq_true_iff, Negative, Flt.toNat_pack_of_lt h]
    unfold Flt.infBits at h
    cases s
    · simp only [Bool.false_eq_true, if_false, iff_false]
      omega
    · simp
  · rw [Flt.pack, if_pos h]
    cases s <;> rfl

theorem Flt.magBits_pack_of_lt {s : Bool} {b : ℕ} (h : b < Flt.infBits) : Flt.magBits (Flt.pack s b) = b := by
  rw [Flt.magBits, Flt.toNat_pack_of_lt h]
  unfold Flt.infBits at h
  cases s <;> simp <;> omega

@[simp] theorem Flt.sign_zero (s : Bool) : Flt.sign (Flt.zero s) = s := by cases s <;> rfl
@[simp] theorem Flt.magBits_zero (s : Bool) : Flt.magBits (Flt.zero s) = 0 := by cases s <;> rfl
@[simp] theorem Flt.sign_inf (s : Bool) : Flt.sign (Flt.inf s) = s := by cases s <;> rfl
@[simp] theorem Flt.magBits_inf (s : Bool) : Flt.magBits (Flt.inf s) = Flt.infBits := by cases s <;> rfl

@[simp] theorem Flt.sign_neg (x : Flt) : Flt.sign (Flt.neg x) = !Flt.sign x := by
  simp [Flt.sign, Flt.neg]

@[simp] theorem Flt.magBits_neg (x : Flt) : Flt.magBits (Flt.neg x) = Flt.magBits x := by
  have h : x.extractLsb' 0 63 = (Flt.neg x).extractLsb' 0 63 := by
    have h0 : ∀ i : Fin 63, (0x8000000000000000 : Flt).getLsbD i.val = false := by decide
    apply BitVec.eq_of_getLsbD_eq
    intro i hi
    simp only [Flt.neg, BitVec.getLsbD_extractLsb', BitVec.getLsbD_xor, zero_add, h0 ⟨i, hi⟩, Bool.xor_false]
  simpa [Flt.magBits] using congrArg BitVec.toNat h.symm

theorem Flt.value_neg (x : Flt) : value (Flt.neg x) = -value x := by
  simp [Flt.value_eq]

/-! ### Rounding to nearest -/

/-- `b` is the sign-less encoding nearest to `a`, which lies between those of `c` and `c + 1`, the even one of two
equally near. -/
def Flt.Nearest (a : ℚ) (b : ℕ) : Prop :=
  ∃ c, Flt.magnitude c ≤ a ∧ a < Flt.magnitude (c + 1) ∧
    (b = c ∧ (2 * a < Flt.magnitude c + Flt.magnitude (c + 1) ∨
        2 * a = Flt.magnitude c + Flt.magnitude (c + 1) ∧ c % 2 = 0) ∨
     b = c + 1 ∧ (Flt.magnitude c + Flt.magnitude (c + 1) < 2 * a ∨
        2 * a = Flt.magnitude c + Flt.magnitude (c + 1) ∧ c % 2 = 1))

/-- A magnitude is its own nearest. -/
theorem Flt.nearest_magnitude (b : ℕ) : Flt.Nearest (Flt.magnitude b) b := by
  have h := Flt.magnitude_strictMono b.lt_succ_self
  exact ⟨b, le_rfl, h, .inl ⟨rfl, .inl (by rw [Nat.succ_eq_add_one] at h; linarith)⟩⟩

/-- No magnitude, with either sign, is nearer, and another one equally near means that `b` is even. -/
theorem Flt.Nearest.optimal {a : ℚ} {b : ℕ} (h : Flt.Nearest a b) (z : ℕ) {v : ℚ}
    (hv : v = Flt.magnitude z ∨ v = -Flt.magnitude z) :
    |Flt.magnitude b - a| ≤ |v - a| ∧
      (|v - a| = |Flt.magnitude b - a| → v ≠ Flt.magnitude b → b % 2 = 0) := by
  obtain ⟨c, hlow, hhigh, hb⟩ := h
  have hc : |Flt.magnitude c - a| = a - Flt.magnitude c := by rw [abs_sub_comm, abs_of_nonneg (by linarith)]
  have hc' : |Flt.magnitude (c + 1) - a| = Flt.magnitude (c + 1) - a := abs_of_nonneg (by linarith)
  have hside : v ≤ Flt.magnitude c ∧ |v - a| = a - v ∨ Flt.magnitude (c + 1) ≤ v ∧ |v - a| = v - a := by
    have hv' : v ≤ Flt.magnitude c ∨ Flt.magnitude (c + 1) ≤ v := by
      rcases hv with rfl | rfl
      · rcases Nat.lt_or_ge c z with hz | hz
        · exact .inr (Flt.magnitude_strictMono.monotone hz)
        · exact .inl (Flt.magnitude_strictMono.monotone hz)
      · exact .inl (by linarith [Flt.magnitude_nonneg z, Flt.magnitude_nonneg c])
    rcases hv' with hv' | hv'
    · exact .inl ⟨hv', by rw [abs_sub_comm, abs_of_nonneg (by linarith)]⟩
    · exact .inr ⟨hv', abs_of_nonneg (by linarith)⟩
  rcases hb with ⟨rfl, hb⟩ | ⟨rfl, hb⟩ <;> rcases hside with ⟨hle, hdist⟩ | ⟨hle, hdist⟩
  · rw [hc, hdist]
    exact ⟨by linarith, fun heq hne => absurd (by linarith) hne⟩
  · rw [hc, hdist]
    rcases hb with hb | ⟨hb, heven⟩
    · exact ⟨by linarith, fun heq => by linarith⟩
    · exact ⟨by linarith, fun _ _ => heven⟩
  · rw [hc', hdist]
    rcases hb with hb | ⟨hb, hodd⟩
    · exact ⟨by linarith, fun heq => by linarith⟩
    · exact ⟨by linarith, fun _ _ => by omega⟩
  · rw [hc', hdist]
    exact ⟨by linarith, fun heq hne => absurd (by linarith) hne⟩

/-- A nearest magnitude overflows exactly from half a unit above the largest finite value on. -/
theorem Flt.Nearest.infBits_le_iff {a : ℚ} {b : ℕ} (h : Flt.Nearest a b) :
    Flt.infBits ≤ b ↔ 2 ^ 1024 - 2 ^ 970 ≤ a := by
  obtain ⟨c, hlow, hhigh, hb⟩ := h
  have hpred := Flt.magnitude_infBits_pred
  have hinf := Flt.magnitude_infBits
  have hpos : (0 : ℚ) < 2 ^ 970 := by positivity
  have hmono := Flt.magnitude_strictMono.monotone
  generalize (2 : ℚ) ^ 1024 = top at *
  generalize (2 : ℚ) ^ 970 = unit at *
  rcases lt_trichotomy c (Flt.infBits - 1) with hc | rfl | hc
  · have := hmono (show c + 1 ≤ Flt.infBits - 1 by omega)
    exact ⟨fun h => by omega, fun h => by linarith⟩
  · have hsucc : Flt.infBits - 1 + 1 = Flt.infBits := by decide
    have hodd : (Flt.infBits - 1) % 2 = 1 := by decide
    rw [hsucc, hpred, hinf] at hb
    rcases hb with ⟨rfl, hb⟩ | ⟨rfl, hb⟩
    · exact ⟨fun h => by omega, fun h => by rcases hb with hb | hb <;> [linarith; omega]⟩
    · exact ⟨fun _ => by rcases hb with hb | hb <;> linarith, fun _ => by omega⟩
  · have := hmono (show Flt.infBits ≤ c by omega)
    exact ⟨fun _ => by linarith, fun _ => by omega⟩

theorem Flt.abs_sub_sgn_mul (s : Bool) (v a : ℚ) : |v - Flt.sgn s * a| = |Flt.sgn s * v - a| := by
  rw [← one_mul |Flt.sgn s * v - a|, ← Flt.abs_sgn s, ← abs_mul, mul_sub, ← mul_assoc, Flt.sgn_mul_self, one_mul]

theorem Flt.sgn_mul_value (s : Bool) (z : Flt) :
    Flt.sgn s * value z = Flt.magnitude (Flt.magBits z) ∨ Flt.sgn s * value z = -Flt.magnitude (Flt.magBits z) := by
  rw [Flt.value_eq, ← mul_assoc, ← Flt.sgn_bne]
  cases s != Flt.sign z <;> simp [Flt.sgn]

/-- The nearest encoding with the sign put to it is the rounded signed value. -/
theorem Flt.Nearest.rounded_pack {a : ℚ} {b : ℕ} (h : Flt.Nearest a b) (ha : 0 ≤ a) (s : Bool) :
    Rounded (Flt.sgn s * a) (Flt.pack s b) := by
  have hover := h.infBits_le_iff
  have hthreshold : (0 : ℚ) < 2 ^ 1024 - 2 ^ 970 := sub_pos.mpr (pow_lt_pow_right₀ one_lt_two (by norm_num))
  unfold Rounded
  generalize (2 : ℚ) ^ 1024 - 2 ^ 970 = threshold at *
  refine ⟨fun hq => ?_, fun hq => ?_, fun hq => ?_, fun hq => ?_, fun hq => ?_⟩
  · rw [abs_mul, Flt.abs_sgn, one_mul, abs_of_nonneg ha] at hq
    have hb : b < Flt.infBits := not_le.mp (mt hover.mp (not_le.mpr hq))
    have hvalue : Flt.sgn s * value (Flt.pack s b) = Flt.magnitude b := by
      rw [Flt.value_eq, Flt.sign_pack, Flt.magBits_pack_of_lt hb, ← mul_assoc, Flt.sgn_mul_self, one_mul]
    simp only [Flt.abs_sub_sgn_mul, hvalue]
    refine ⟨(Flt.finiteValue_iff _).mpr (by rwa [Flt.magBits_pack_of_lt hb]), fun z _ => ?_, fun z _ hz hne => ?_⟩
    · exact (h.optimal _ (Flt.sgn_mul_value s z)).1
    · have heven := (h.optimal _ (Flt.sgn_mul_value s z)).2 hz fun heq =>
        hne (mul_left_cancel₀ (Flt.sgn_ne_zero s) (heq.trans hvalue.symm))
      rw [Flt.toNat_pack_of_lt hb]
      cases s <;> simp <;> omega
  all_goals cases s <;> simp only [Flt.sgn, if_true, Bool.false_eq_true, if_false, one_mul, neg_one_mul] at hq
  · rw [Flt.pack, if_pos (hover.mpr hq)]
    rfl
  · linarith
  · linarith
  · rw [Flt.pack, if_pos (hover.mpr (neg_le_neg_iff.mp hq))]
    rfl
  · linarith
  · exact (Flt.sign_eq_true_iff _).mp (Flt.sign_pack _ _)
  · exact not_le.mp (mt (Flt.sign_eq_true_iff _).mpr (by simp [Flt.sign_pack]))
  · linarith

/-- The integer `m` in units of 2^e stands for `a` to the rounding: it is `a`, or it has at least 55 bits and lies on the
side of every even integer on which `a` lies. -/
def Flt.StandsFor (m : ℕ) (e : ℤ) (a : ℚ) : Prop :=
  a = m * 2 ^ e ∨
    2 ^ 54 ≤ m ∧ ∀ i : ℕ, ((2 * i : ℕ) * 2 ^ e < a ↔ 2 * i < m) ∧ (a < (2 * i : ℕ) * 2 ^ e ↔ m < 2 * i)

/-- The integer compares with every even integer, and if it has fewer than 55 bits with every integer, as `a` does. -/
theorem Flt.StandsFor.compare {m : ℕ} {e : ℤ} {a : ℚ} (h : Flt.StandsFor m e a) {n : ℕ} (hn : n % 2 = 0 ∨ m < 2 ^ 54) :
    (n * 2 ^ e < a ↔ n < m) ∧ (a < n * 2 ^ e ↔ m < n) := by
  rcases h with rfl | ⟨hm, h⟩
  · have hpos : (0 : ℚ) < 2 ^ e := by positivity
    simp [mul_lt_mul_iff_left₀ hpos]
  · have hn : 2 * (n / 2) = n := by omega
    simpa [hn] using h (n / 2)

/-- A significand that fits in the last place needs no rounding. -/
theorem Flt.nearest_of_fits {m j k : ℕ} {e : ℤ} (he : e = k - 1074 + j) (hhigh : m * 2 ^ j ≤ 2 ^ 53)
    (hlow : k = 0 ∨ 2 ^ 52 ≤ m * 2 ^ j) : Flt.Nearest (m * 2 ^ e) (k * 2 ^ 52 + m * 2 ^ j) := by
  have h := Flt.nearest_magnitude (k * 2 ^ 52 + m * 2 ^ j)
  rw [Flt.magnitude_eq hhigh hlow] at h
  convert h using 1
  rw [he, zpow_add₀ two_ne_zero, zpow_natCast]
  push_cast
  ring

/-- The quotient by 2^(j+1), and what decides whether it is rounded up. -/
theorem Flt.roundShift_cases (m j : ℕ) :
    ∃ f, f = m / 2 ^ (j + 1) ∧ f * 2 ^ (j + 1) ≤ m ∧ m < (f + 1) * 2 ^ (j + 1) ∧
      (Flt.roundShift m (j + 1) = f ∧ (m < (2 * f + 1) * 2 ^ j ∨ m = (2 * f + 1) * 2 ^ j ∧ f % 2 = 0) ∨
       Flt.roundShift m (j + 1) = f + 1 ∧ ((2 * f + 1) * 2 ^ j < m ∨ m = (2 * f + 1) * 2 ^ j ∧ f % 2 = 1)) := by
  have hdiv := Nat.div_add_mod m (2 ^ (j + 1))
  have hmod := Nat.mod_lt m (Nat.two_pow_pos (j + 1))
  have hround : Flt.roundShift m (j + 1) = if 2 * (m % 2 ^ (j + 1)) > 2 ^ (j + 1) ∨
      2 * (m % 2 ^ (j + 1)) = 2 ^ (j + 1) ∧ m / 2 ^ (j + 1) % 2 = 1 then m / 2 ^ (j + 1) + 1
      else m / 2 ^ (j + 1) := by
    simp [Flt.roundShift]
  refine ⟨_, rfl, ?_⟩
  rw [hround]
  generalize m / 2 ^ (j + 1) = f at *
  generalize m % 2 ^ (j + 1) = r at *
  rw [pow_succ, add_mul, add_mul, mul_assoc 2 f, ← mul_assoc f, mul_comm (2 ^ j * 2) f, ← mul_assoc] at *
  generalize f * 2 ^ j = g at *
  generalize 2 ^ j = p at *
  split <;> omega

/-- Dropping the `j + 1` bits below the last place, with rounding, gives the nearest encoding. -/
theorem Flt.StandsFor.nearest_roundShift {m j k : ℕ} {e : ℤ} {a : ℚ} (h : Flt.StandsFor m e a)
    (he : (k - 1074 : ℤ) = e + (j + 1 : ℕ)) (hhigh : m < 2 ^ (53 + (j + 1)))
    (hlow : k = 0 ∨ 2 ^ (52 + (j + 1)) ≤ m) :
    Flt.Nearest a (k * 2 ^ 52 + Flt.roundShift m (j + 1)) := by
  obtain ⟨f, hf, hfloor, hceil, hround⟩ := Flt.roundShift_cases m j
  have hfhigh : f < 2 ^ 53 := by
    rw [hf, Nat.div_lt_iff_lt_mul (Nat.two_pow_pos _), ← pow_add]
    exact hhigh
  have hflow : k = 0 ∨ 2 ^ 52 ≤ f := by
    rw [hf, Nat.le_div_iff_mul_le (Nat.two_pow_pos _), ← pow_add]
    exact hlow
  have hunit : (2 : ℚ) ^ (k - 1074 : ℤ) = 2 * 2 ^ j * 2 ^ e := by
    rw [he, zpow_add₀ two_ne_zero, zpow_natCast, pow_succ]
    ring
  have hc : Flt.magnitude (k * 2 ^ 52 + f) = (f * 2 ^ (j + 1) : ℕ) * 2 ^ e := by
    rw [Flt.magnitude_eq hfhigh.le hflow, hunit]
    push_cast
    ring
  have hc' : Flt.magnitude (k * 2 ^ 52 + f + 1) = ((f + 1) * 2 ^ (j + 1) : ℕ) * 2 ^ e := by
    rw [add_assoc, Flt.magnitude_eq hfhigh (by omega), hunit]
    push_cast
    ring
  have hsum : Flt.magnitude (k * 2 ^ 52 + f) + Flt.magnitude (k * 2 ^ 52 + f + 1) =
      2 * (((2 * f + 1) * 2 ^ j : ℕ) * 2 ^ e) := by
    rw [hc, hc']
    push_cast
    ring
  have heven : ∀ n i : ℕ, n * 2 ^ (i + 1) % 2 = 0 := fun n i => by rw [pow_succ, ← mul_assoc, Nat.mul_mod_left]
  have hmid : (2 * f + 1) * 2 ^ j % 2 = 0 ∨ m < 2 ^ 54 := by
    rcases j with _ | j
    · exact .inr hhigh
    · exact .inl (heven _ j)
  obtain ⟨hmid1, hmid2⟩ := h.compare hmid
  obtain ⟨-, hfloor'⟩ := h.compare (.inl (heven f j))
  obtain ⟨-, hceil'⟩ := h.compare (.inl (heven (f + 1) j))
  have htie : m = (2 * f + 1) * 2 ^ j → a = ((2 * f + 1) * 2 ^ j : ℕ) * 2 ^ e := fun hm =>
    le_antisymm (not_lt.mp (mt hmid1.mp (by omega))) (not_lt.mp (mt hmid2.mp (by omega)))
  refine ⟨k * 2 ^ 52 + f, by rw [hc]; exact not_lt.mp (mt hfloor'.mp (not_lt.mpr hfloor)),
    by rw [hc']; exact hceil'.mpr hceil, ?_⟩
  rw [hsum]
  rcases hround with ⟨hr, hr'⟩ | ⟨hr, hr'⟩
  · refine .inl ⟨by rw [hr], hr'.imp (fun hm => ?_) fun ⟨hm, hf⟩ => ⟨by rw [htie hm], by omega⟩⟩
    linarith [hmid2.mpr hm]
  · refine .inr ⟨by rw [hr, add_assoc], hr'.imp (fun hm => ?_) fun ⟨hm, hf⟩ => ⟨by rw [htie hm], by omega⟩⟩
    linarith [hmid1.mpr hm]

/-- The exponent of the last place of a rounded result: 53 significant bits, but none below the subnormals' unit. -/
def Flt.lastPlace (m : ℕ) (e : ℤ) : ℤ := max (e + Nat.log2 m - 52) (-1074)

theorem Flt.round_eq (s : Bool) {m : ℕ} (hm : m ≠ 0) (e : ℤ) :
    Flt.round s m e = Flt.pack s ((Flt.lastPlace m e + 1074).toNat * 2 ^ 52 +
      if Flt.lastPlace m e ≤ e then m * 2 ^ (e - Flt.lastPlace m e).toNat
      else Flt.roundShift m (Flt.lastPlace m e - e).toNat) := by
  unfold Flt.round Flt.pack Flt.infBits Flt.lastPlace
  rw [if_neg hm]

/-- Rounding an integer in units of 2^e gives the encoding nearest to what the integer stands for. -/
theorem Flt.StandsFor.round_eq_pack {m : ℕ} {e : ℤ} {a : ℚ} (h : Flt.StandsFor m e a) (s : Bool) :
    ∃ b, Flt.Nearest a b ∧ Flt.round s m e = Flt.pack s b := by
  rcases Nat.eq_zero_or_pos m with rfl | hm
  · obtain rfl : a = Flt.magnitude 0 := by
      rcases h with rfl | ⟨h, -⟩
      · simp
      · omega
    exact ⟨0, Flt.nearest_magnitude 0, by rw [Flt.pack_zero, Flt.round, if_pos rfl]⟩
  have hlow := Nat.log2_self_le hm.ne'
  have hhigh := Nat.lt_log2_self (n := m)
  refine ⟨_, ?_, Flt.round_eq s hm.ne' e⟩
  have hplace : Flt.lastPlace m e = max (e + Nat.log2 m - 52) (-1074) := rfl
  generalize Nat.log2 m = L at *
  obtain ⟨k, hk⟩ : ∃ k : ℕ, Flt.lastPlace m e = (k - 1074 : ℤ) :=
    ⟨(Flt.lastPlace m e + 1074).toNat, by omega⟩
  have hk' : ((k - 1074 : ℤ) + 1074).toNat = k := by omega
  rw [hk, hk']
  split
  case isTrue hq =>
    have hj : e = k - 1074 + (e - (k - 1074)).toNat := by omega
    generalize (e - (k - 1074)).toNat = j at *
    obtain rfl : a = m * 2 ^ e := h.resolve_right fun ⟨hm, _⟩ => by
      have := (Nat.pow_lt_pow_iff_right Nat.one_lt_two).mp (hm.trans_lt hhigh)
      omega
    refine Flt.nearest_of_fits hj ?_ ?_
    · calc m * 2 ^ j ≤ 2 ^ (L + 1) * 2 ^ j := Nat.mul_le_mul_right _ hhigh.le
        _ = 2 ^ (L + 1 + j) := (pow_add ..).symm
        _ ≤ 2 ^ 53 := Nat.pow_le_pow_right Nat.two_pos (by omega)
    · refine or_iff_not_imp_left.mpr fun hk0 => ?_
      calc 2 ^ 52 = 2 ^ L * 2 ^ j := by rw [← pow_add]; congr 1; omega
        _ ≤ m * 2 ^ j := Nat.mul_le_mul_right _ hlow
  case isFalse hq =>
    obtain ⟨j, hj⟩ : ∃ j : ℕ, (k - 1074 - e : ℤ).toNat = j + 1 := ⟨(k - 1074 - e : ℤ).toNat - 1, by omega⟩
    rw [hj]
    refine h.nearest_roundShift (by omega) ?_ ?_
    · exact hhigh.trans_le (Nat.pow_le_pow_right Nat.two_pos (by omega))
    · refine or_iff_not_imp_left.mpr fun hk0 => ?_
      rwa [show 52 + (j + 1) = L by omega]

/-- Rounding an integer in units of 2^e, with a sign, rounds the value the integer stands for. -/
theorem Flt.StandsFor.rounded_round {m : ℕ} {e : ℤ} {a : ℚ} (h : Flt.StandsFor m e a) (ha : 0 ≤ a) (s : Bool) :
    Rounded (Flt.sgn s * a) (Flt.round s m e) := by
  obtain ⟨b, hb, hround⟩ := h.round_eq_pack s
  rw [hround]
  exact hb.rounded_pack ha s

theorem Flt.rounded_round (s : Bool) (m : ℕ) (e : ℤ) : Rounded (Flt.sgn s * (m * 2 ^ e)) (Flt.round s m e) :=
  Flt.StandsFor.rounded_round (.inl rfl) (by positivity) s

/-- The sign of a rounded result is the one given, also where it underflows or overflows. -/
@[simp] theorem Flt.sign_round (s : Bool) (m : ℕ) (e : ℤ) : Flt.sign (Flt.round s m e) = s := by
  obtain ⟨b, -, hround⟩ := Flt.StandsFor.round_eq_pack (.inl rfl : Flt.StandsFor m e _) s
  rw [hround, Flt.sign_pack]

/-- A result that is a magnitude itself is exact. -/
theorem Flt.rounded_magnitude {s : Bool} {b : ℕ} {r : Flt} (hb : b < Flt.infBits)
    (hr : Rounded (Flt.sgn s * Flt.magnitude b) r) : FiniteValue r ∧ value r = Flt.sgn s * Flt.magnitude b := by
  have hp := Flt.magBits_pack_of_lt (s := s) hb
  have hexact : value (Flt.pack s b) = Flt.sgn s * Flt.magnitude b := by rw [Flt.value_eq, Flt.sign_pack, hp]
  have hsmall : |Flt.sgn s * Flt.magnitude b| < 2 ^ 1024 - 2 ^ 970 := by
    rw [abs_mul, Flt.abs_sgn, one_mul, abs_of_nonneg (Flt.magnitude_nonneg b)]
    exact not_le.mp (mt (Flt.nearest_magnitude b).infBits_le_iff.mpr (not_le.mpr hb))
  obtain ⟨hfin, hnear, -⟩ := hr.1 hsmall
  refine ⟨hfin, ?_⟩
  have hdist := hnear (Flt.pack s b) ((Flt.finiteValue_iff _).mpr (by rwa [hp]))
  rwa [hexact, sub_self, abs_zero, abs_nonpos_iff, sub_eq_zero] at hdist

/-! ### The operations on finite operands -/

theorem Flt.not_isNaN_of_finiteValue {x : Flt} (h : FiniteValue x) : Flt.isNaN x = false :=
  Flt.not_isNaN_of_isFinite ((Flt.isFinite_iff x).mpr h)

theorem Flt.not_isInf_of_finiteValue {x : Flt} (h : FiniteValue x) : Flt.isInf x = false :=
  Flt.not_isInf_of_isFinite ((Flt.isFinite_iff x).mpr h)

/-- A finite value is its signed significand in units of its last place. -/
theorem Flt.value_eq_mant (x : Flt) : value x = Flt.sgn (Flt.sign x) * (Flt.mant x * 2 ^ Flt.exp x) := by
  rw [Flt.value_eq, Flt.magnitude_magBits]

theorem Flt.mul_eq_round (nan : Flt) {x y : Flt} (hx : FiniteValue x) (hy : FiniteValue y) :
    Flt.mul nan x y =
      Flt.round (Flt.sign x != Flt.sign y) (Flt.mant x * Flt.mant y) (Flt.exp x + Flt.exp y) := by
  simp [Flt.mul, Flt.not_isNaN_of_finiteValue, Flt.not_isInf_of_finiteValue, hx, hy]

theorem Flt.rounded_mul (nan : Flt) {x y : Flt} (hx : FiniteValue x) (hy : FiniteValue y) :
    Rounded (value x * value y) (Flt.mul nan x y) := by
  have h := Flt.rounded_round (Flt.sign x != Flt.sign y) (Flt.mant x * Flt.mant y) (Flt.exp x + Flt.exp y)
  rw [Flt.mul_eq_round nan hx hy]
  convert h using 1
  rw [Flt.value_eq_mant, Flt.value_eq_mant, Flt.sgn_bne, zpow_add₀ two_ne_zero]
  push_cast
  ring

theorem Flt.sign_mul (nan : Flt) {x y : Flt} (hx : FiniteValue x) (hy : FiniteValue y) :
    Flt.sign (Flt.mul nan x y) = (Flt.sign x != Flt.sign y) := by
  rw [Flt.mul_eq_round nan hx hy, Flt.sign_round]

/-- The significand of a quotient: 120 more bits than the operands' ratio, and a last one for a remainder. -/
def Flt.quotient (x y : Flt) : ℕ :=
  2 * (Flt.mant x * 2 ^ 120 / Flt.mant y) + if Flt.mant x * 2 ^ 120 % Flt.mant y = 0 then 0 else 1

theorem Flt.div_eq_round (nan : Flt) {x y : Flt} (hx : FiniteValue x) (hy : FiniteValue y) (h0 : value y ≠ 0) :
    Flt.div nan x y =
      Flt.round (Flt.sign x != Flt.sign y) (Flt.quotient x y) (Flt.exp x - Flt.exp y - 121) := by
  have h0 : Flt.isZero y = false := by rwa [ne_eq, Flt.value_eq_zero_iff, Bool.not_eq_true] at h0
  simp [Flt.div, Flt.quotient, Flt.not_isNaN_of_finiteValue, Flt.not_isInf_of_finiteValue, hx, hy, h0]

/-- The doubled quotient of naturals with a last bit for the remainder stands for the exact one. -/
theorem Flt.standsFor_quotient {n d : ℕ} (e : ℤ) (hd : 0 < d) (hbig : n % d ≠ 0 → 2 ^ 53 * d ≤ n) :
    Flt.StandsFor (2 * (n / d) + if n % d = 0 then 0 else 1) (e - 1) ((n : ℚ) / d * 2 ^ e) := by
  have hd' : (0 : ℚ) < d := by exact_mod_cast hd
  have hpos : (0 : ℚ) < 2 ^ e := by positivity
  have hunit : (2 : ℚ) ^ e = 2 * 2 ^ (e - 1) := by rw [← zpow_one_add₀ two_ne_zero]; congr 1; ring
  have hdivmod := Nat.div_add_mod n d
  rcases Nat.eq_zero_or_pos (n % d) with hr | hr
  · left
    have hn : (n : ℚ) = d * (n / d : ℕ) := by exact_mod_cast (by omega : n = d * (n / d))
    rw [if_pos hr, hn, mul_div_cancel_left₀ _ hd'.ne', hunit]
    push_cast
    ring
  · refine .inr ⟨?_, fun i => ?_⟩
    · have := (Nat.le_div_iff_mul_le hd).mpr (hbig hr.ne')
      omega
    · have hi : ((2 * i : ℕ) : ℚ) * 2 ^ (e - 1) = i * 2 ^ e := by rw [hunit]; push_cast; ring
      rw [if_neg hr.ne', hi, mul_lt_mul_iff_left₀ hpos, mul_lt_mul_iff_left₀ hpos, lt_div_iff₀ hd', div_lt_iff₀ hd']
      norm_cast
      have hlt : n < i * d ↔ n / d < i := (Nat.div_lt_iff_lt_mul hd).symm
      have hne : i * d ≠ n := fun h => by simp [← h] at hr
      constructor
      · rw [lt_iff_not_ge, hne.symm.le_iff_lt, hlt]
        omega
      · rw [hlt]
        omega

theorem Flt.mant_lt (x : Flt) : Flt.mant x < 2 ^ 53 := by
  unfold Flt.mant Flt.frac
  split <;> omega

theorem Flt.mant_pos {x : Flt} (h : value x ≠ 0) : 0 < Flt.mant x := by
  refine Nat.pos_of_ne_zero fun hm => h ?_
  rw [Flt.value_eq_mant, hm]
  simp

theorem Flt.rounded_div (nan : Flt) {x y : Flt} (hx : FiniteValue x) (hy : FiniteValue y) (h0 : value y ≠ 0) :
    Rounded (value x / value y) (Flt.div nan x y) := by
  have hy0 : (Flt.mant y : ℚ) ≠ 0 := by exact_mod_cast (Flt.mant_pos h0).ne'
  have hbig : Flt.mant x * 2 ^ 120 % Flt.mant y ≠ 0 → 2 ^ 53 * Flt.mant y ≤ Flt.mant x * 2 ^ 120 := fun hr => by
    have hx0 : Flt.mant x ≠ 0 := fun h => hr (by simp [h])
    have := Flt.mant_lt y
    omega
  have h := (Flt.standsFor_quotient (Flt.exp x - Flt.exp y - 120) (Flt.mant_pos h0) hbig).rounded_round
    (by positivity) (Flt.sign x != Flt.sign y)
  rw [Flt.div_eq_round nan hx hy h0, Flt.quotient]
  convert h using 1
  · rw [Flt.value_eq_mant, Flt.value_eq_mant, Flt.sgn_bne, zpow_sub₀ two_ne_zero, zpow_sub₀ two_ne_zero]
    have hinv : (Flt.sgn (Flt.sign y))⁻¹ = Flt.sgn (Flt.sign y) :=
      inv_eq_of_mul_eq_one_left (Flt.sgn_mul_self _)
    rw [div_eq_mul_inv, mul_inv, hinv]
    push_cast
    field_simp
  · congr 1
    ring

theorem Flt.sign_div (nan : Flt) {x y : Flt} (hx : FiniteValue x) (hy : FiniteValue y) (h0 : value y ≠ 0) :
    Flt.sign (Flt.div nan x y) = (Flt.sign x != Flt.sign y) := by
  rw [Flt.div_eq_round nan hx hy h0, Flt.sign_round]

/-- The significand of `x`, with its sign, in units of 2^e. -/
def Flt.scaled (e : ℤ) (x : Flt) : ℤ := (if Flt.sign x then -1 else 1) * (Flt.mant x * 2 ^ (Flt.exp x - e).toNat : ℕ)

theorem Flt.scaled_mul {e : ℤ} {x : Flt} (he : e ≤ Flt.exp x) : Flt.scaled e x * 2 ^ e = value x := by
  have hexp : Flt.exp x = (Flt.exp x - e).toNat + e := by omega
  rw [Flt.value_eq_mant, Flt.scaled]
  conv_rhs => rw [hexp, zpow_add₀ two_ne_zero, zpow_natCast]
  cases Flt.sign x <;> simp [Flt.sgn, mul_assoc]

/-- The sum of the operands in units of the smaller last place. -/
def Flt.exactSum (x y : Flt) : ℤ :=
  Flt.scaled (min (Flt.exp x) (Flt.exp y)) x + Flt.scaled (min (Flt.exp x) (Flt.exp y)) y

theorem Flt.add_eq_round (nan : Flt) {x y : Flt} (hx : FiniteValue x) (hy : FiniteValue y) :
    Flt.add nan x y = if Flt.exactSum x y = 0 then Flt.zero (Flt.sign x && Flt.sign y)
      else Flt.round (Flt.exactSum x y < 0) (Flt.exactSum x y).natAbs (min (Flt.exp x) (Flt.exp y)) := by
  simp [Flt.add, Flt.exactSum, Flt.scaled, Flt.not_isNaN_of_finiteValue, Flt.not_isInf_of_finiteValue, hx, hy]

theorem Flt.exactSum_mul (x y : Flt) :
    (Flt.exactSum x y : ℚ) * 2 ^ min (Flt.exp x) (Flt.exp y) = value x + value y := by
  rw [Flt.exactSum, Int.cast_add, add_mul, Flt.scaled_mul (min_le_left _ _), Flt.scaled_mul (min_le_right _ _)]

theorem Flt.exactSum_eq_zero_iff (x y : Flt) : Flt.exactSum x y = 0 ↔ value x + value y = 0 := by
  rw [← Flt.exactSum_mul, mul_eq_zero_iff_right (zpow_ne_zero _ two_ne_zero), Int.cast_eq_zero]

theorem Flt.cast_eq_sgn_mul (z : ℤ) : (z : ℚ) = Flt.sgn (z < 0) * z.natAbs := by
  rw [Nat.cast_natAbs, Int.cast_abs, Flt.sgn]
  split
  case isTrue h => rw [abs_of_neg (by exact_mod_cast of_decide_eq_true h)]; ring
  case isFalse h => rw [abs_of_nonneg (by exact_mod_cast not_lt.mp (mt decide_eq_true h))]; ring

theorem Flt.rounded_add (nan : Flt) {x y : Flt} (hx : FiniteValue x) (hy : FiniteValue y) :
    Rounded (value x + value y) (Flt.add nan x y) := by
  rw [Flt.add_eq_round nan hx hy]
  split
  case isTrue h =>
    have h0 := (Flt.nearest_magnitude 0).rounded_pack (Flt.magnitude_nonneg 0) (Flt.sign x && Flt.sign y)
    rwa [Flt.magnitude_zero, mul_zero, Flt.pack_zero, ← (Flt.exactSum_eq_zero_iff x y).mp h] at h0
  case isFalse h =>
    have hr := Flt.rounded_round (Flt.exactSum x y < 0) (Flt.exactSum x y).natAbs (min (Flt.exp x) (Flt.exp y))
    rwa [← mul_assoc, ← Flt.cast_eq_sgn_mul, Flt.exactSum_mul] at hr

/-- An exact zero sum is negative only for two negative-signed operands. -/
theorem Flt.sign_add_of_zero (nan : Flt) {x y : Flt} (hx : FiniteValue x) (hy : FiniteValue y)
    (h : value x + value y = 0) : Flt.sign (Flt.add nan x y) = (Flt.sign x && Flt.sign y) := by
  rw [Flt.add_eq_round nan hx hy, if_pos ((Flt.exactSum_eq_zero_iff x y).mpr h), Flt.sign_zero]

theorem Flt.finiteValue_neg {x : Flt} : FiniteValue (Flt.neg x) ↔ FiniteValue x := by
  simp only [Flt.finiteValue_iff, Flt.magBits_neg]

theorem Flt.rounded_sub (nan : Flt) {x y : Flt} (hx : FiniteValue x) (hy : FiniteValue y) :
    Rounded (value x - value y) (Flt.sub nan x y) := by
  have h := Flt.rounded_add nan hx (Flt.finiteValue_neg.mpr hy)
  rwa [Flt.value_neg, ← sub_eq_add_neg] at h

theorem Flt.sign_sub_of_zero (nan : Flt) {x y : Flt} (hx : FiniteValue x) (hy : FiniteValue y)
    (h : value x - value y = 0) : Flt.sign (Flt.sub nan x y) = (Flt.sign x && !Flt.sign y) := by
  have h' := Flt.sign_add_of_zero nan hx (Flt.finiteValue_neg.mpr hy) (by rwa [Flt.value_neg, ← sub_eq_add_neg])
  rwa [Flt.sign_neg] at h'

/-- An integer of at most 53 bits converts exactly. -/
theorem Flt.ofInt_exact {z : ℤ} (hz : |z| ≤ 2 ^ 53) : FiniteValue (Flt.ofInt z) ∧ value (Flt.ofInt z) = z := by
  have habs : z.natAbs ≤ 2 ^ 53 := by rw [Int.abs_eq_natAbs] at hz; omega
  obtain ⟨b, hb⟩ := Flt.exists_magnitude 1074 z.natAbs habs
  have hr := Flt.rounded_round (z < 0) z.natAbs 0
  have hzero : ((1074 : ℕ) - 1074 : ℤ) = 0 := rfl
  rw [hzero] at hb
  rw [← hb] at hr
  have hexact : Flt.sgn (z < 0) * Flt.magnitude b = z := by
    rw [hb, zpow_zero, mul_one, ← Flt.cast_eq_sgn_mul]
  have hfin : b < Flt.infBits := by
    rw [← Flt.magnitude_strictMono.lt_iff_lt, hb, Flt.magnitude_infBits, zpow_zero, mul_one]
    exact_mod_cast lt_of_le_of_lt habs (Nat.pow_lt_pow_right one_lt_two (by norm_num))
  have h := Flt.rounded_magnitude hfin hr
  rwa [hexact] at h

theorem Flt.sign_ofInt (z : ℤ) : Flt.sign (Flt.ofInt z) = decide (z < 0) := Flt.sign_round _ _ _

/-- Settles O34: each operation is one rounding of an integer that stands for the exact result, and the encodings in
order are the magnitudes in order. -/
theorem arithmeticIsCorrectlyRounded : Obligations.ArithmeticIsCorrectlyRounded := by
  unfold Obligations.ArithmeticIsCorrectlyRounded
  simp only [← Flt.sign_eq_true_iff]
  refine ⟨fun nan x y hx hy => ⟨Flt.rounded_add nan hx hy, Flt.rounded_sub nan hx hy, Flt.rounded_mul nan hx hy,
    Flt.rounded_div nan hx hy, fun h => ?_, fun h => ?_, fun _ => ?_, fun _ h => ?_⟩, fun z hz => ?_⟩
  · simp [Flt.sign_add_of_zero nan hx hy h]
  · simp [Flt.sign_sub_of_zero nan hx hy h]
  · simp [Flt.sign_mul nan hx hy]
  · simp [Flt.sign_div nan hx hy h]
  · obtain ⟨hfin, hvalue⟩ := Flt.ofInt_exact hz
    exact ⟨hfin, hvalue, by simp [Flt.sign_ofInt]⟩

/-! ### Infinite operands and zero divisors -/

theorem Flt.not_isNaN_of_isInf {x : Flt} (h : Flt.isInf x = true) : Flt.isNaN x = false := by
  simp only [Flt.isInf, Bool.and_eq_true, beq_iff_eq] at h
  simp [Flt.isNaN, h]

theorem Flt.not_isZero_of_isInf {x : Flt} (h : Flt.isInf x = true) : Flt.isZero x = false := by
  simp only [Flt.isInf, Bool.and_eq_true, beq_iff_eq] at h
  simp [Flt.isZero, h]

@[simp] theorem Flt.isInf_neg (x : Flt) : Flt.isInf (Flt.neg x) = Flt.isInf x := by
  rw [Bool.eq_iff_iff, Flt.isInf_iff, Flt.isInf_iff, Flt.magBits_neg]

theorem Flt.isInfinity_inf {s : Bool} {p : Prop} (h : s = true ↔ p) : IsInfinity (Flt.inf s) p :=
  ⟨(Flt.isInf_iff _).mpr (Flt.magBits_inf s), by rw [← Flt.sign_eq_true_iff, Flt.sign_inf, h]⟩

theorem Flt.isInfinity_neg {x : Flt} (h : Flt.isInf x = true) : IsInfinity (Flt.neg x) (¬ Negative x) :=
  ⟨by rwa [Flt.isInf_neg], by simp [← Flt.sign_eq_true_iff]⟩

/-- The sign of a product or a quotient. -/
theorem Flt.sign_bne_iff (x y : Flt) : (Flt.sign x != Flt.sign y) = true ↔ ¬ (Negative x ↔ Negative y) := by
  rw [← Flt.sign_eq_true_iff, ← Flt.sign_eq_true_iff, ← Bool.eq_iff_iff, bne_iff_ne]

theorem Flt.add_inf_inf (nan : Flt) {x y : Flt} (hx : Flt.isInf x = true) (hy : Flt.isInf y = true) :
    Flt.add nan x y = if Flt.sign x = Flt.sign y then x else nan := by
  simp [Flt.add, Flt.not_isNaN_of_isInf, hx, hy, ite_not]

theorem Flt.sub_inf_inf (nan : Flt) {x y : Flt} (hx : Flt.isInf x = true) (hy : Flt.isInf y = true) :
    Flt.sub nan x y = if Flt.sign x = Flt.sign y then nan else x := by
  rw [Flt.sub, Flt.add_inf_inf nan hx (by rwa [Flt.isInf_neg]), Flt.sign_neg]
  cases Flt.sign x <;> cases Flt.sign y <;> rfl

theorem Flt.mul_inf_inf (nan : Flt) {x y : Flt} (hx : Flt.isInf x = true) (hy : Flt.isInf y = true) :
    Flt.mul nan x y = Flt.inf (Flt.sign x != Flt.sign y) := by
  simp [Flt.mul, Flt.not_isNaN_of_isInf, Flt.not_isZero_of_isInf, hx, hy]

theorem Flt.div_inf_inf (nan : Flt) {x y : Flt} (hx : Flt.isInf x = true) (hy : Flt.isInf y = true) :
    Flt.div nan x y = nan := by
  simp [Flt.div, Flt.not_isNaN_of_isInf, hx, hy]

section
variable (nan : Flt) {x y : Flt} (hx : Flt.isInf x = true) (hy : FiniteValue y)
include hx hy

theorem Flt.add_inf_finite : Flt.add nan x y = x := by
  simp [Flt.add, Flt.not_isNaN_of_isInf, Flt.not_isNaN_of_finiteValue, Flt.not_isInf_of_finiteValue, hx, hy]

theorem Flt.add_finite_inf : Flt.add nan y x = x := by
  simp [Flt.add, Flt.not_isNaN_of_isInf, Flt.not_isNaN_of_finiteValue, Flt.not_isInf_of_finiteValue, hx, hy]

theorem Flt.mul_inf_finite :
    Flt.mul nan x y = if Flt.isZero y = true then nan else Flt.inf (Flt.sign x != Flt.sign y) := by
  simp [Flt.mul, Flt.not_isNaN_of_isInf, Flt.not_isNaN_of_finiteValue, hx, hy]

theorem Flt.mul_finite_inf :
    Flt.mul nan y x = if Flt.isZero y = true then nan else Flt.inf (Flt.sign x != Flt.sign y) := by
  simp [Flt.mul, Flt.not_isNaN_of_isInf, Flt.not_isNaN_of_finiteValue, Flt.not_isInf_of_finiteValue, hx, hy,
    bne_comm (a := Flt.sign y)]

theorem Flt.div_inf_finite : Flt.div nan x y = Flt.inf (Flt.sign x != Flt.sign y) := by
  simp [Flt.div, Flt.not_isNaN_of_isInf, Flt.not_isNaN_of_finiteValue, Flt.not_isInf_of_finiteValue, hx, hy]

theorem Flt.div_finite_inf : Flt.div nan y x = Flt.zero (Flt.sign x != Flt.sign y) := by
  simp [Flt.div, Flt.not_isNaN_of_isInf, Flt.not_isNaN_of_finiteValue, Flt.not_isInf_of_finiteValue, hx, hy,
    bne_comm (a := Flt.sign y)]

end

theorem Flt.div_finite_zero (nan : Flt) {x y : Flt} (hx : FiniteValue x) (hy : Flt.isZero y = true) :
    Flt.div nan x y = if Flt.isZero x = true then nan else Flt.inf (Flt.sign x != Flt.sign y) := by
  have hfin : FiniteValue y := by
    rw [Flt.finiteValue_iff, (Flt.isZero_iff y).mp hy]
    decide
  simp [Flt.div, Flt.not_isNaN_of_finiteValue, Flt.not_isInf_of_finiteValue, hx, hfin, hy]

theorem Flt.finiteValue_zero (s : Bool) : FiniteValue (Flt.zero s) := by
  rw [Flt.finiteValue_iff, Flt.magBits_zero]
  decide

@[simp] theorem Flt.value_zero (s : Bool) : value (Flt.zero s) = 0 := by
  rw [Flt.value_eq_zero_iff, Flt.isZero_iff, Flt.magBits_zero]

/-- Settles O35, class by class: a NaN operand, two infinities, one infinity and a finite operand, a zero divisor. -/
theorem specialOperandsFollowIeee754 : Obligations.SpecialOperandsFollowIeee754 := by
  unfold Obligations.SpecialOperandsFollowIeee754
  intro nan x y hnan
  refine ⟨fun h => ?_, fun hx hy => ?_, fun hx hy => ?_, fun hx hy hzero => ?_⟩
  · rw [Flt.add_nan nan x y h, Flt.sub_nan nan x y h, Flt.mul_nan nan x y h, Flt.div_nan nan x y h]
    exact ⟨hnan, hnan, hnan, hnan⟩
  · rw [Flt.add_inf_inf nan hx hy, Flt.sub_inf_inf nan hx hy, Flt.mul_inf_inf nan hx hy, Flt.div_inf_inf nan hx hy]
    refine ⟨fun hs => ?_, fun hs => ?_, Flt.isInfinity_inf (Flt.sign_bne_iff x y), hnan⟩
    all_goals
      rw [← Flt.sign_eq_true_iff, ← Flt.sign_eq_true_iff, ← Bool.eq_iff_iff] at hs
      simp [hs, hnan]
  · have hsub : Flt.sub nan y x = Flt.neg x := Flt.add_finite_inf nan (by rwa [Flt.isInf_neg]) hy
    have hsub' : Flt.sub nan x y = x := Flt.add_inf_finite nan hx (Flt.finiteValue_neg.mpr hy)
    have hsign := Flt.sign_bne_iff x y
    rw [hsub, hsub', Flt.mul_inf_finite nan hx hy, Flt.mul_finite_inf nan hx hy, Flt.div_inf_finite nan hx hy,
      Flt.div_finite_inf nan hx hy]
    refine ⟨Flt.add_inf_finite nan hx hy, Flt.add_finite_inf nan hx hy, rfl, Flt.isInfinity_neg hx, fun h => ?_,
      fun h => ?_, Flt.isInfinity_inf hsign, Flt.finiteValue_zero _, Flt.value_zero _, ?_⟩
    · rw [if_pos ((Flt.value_eq_zero_iff y).mp h)]
      exact ⟨hnan, hnan⟩
    · rw [if_neg (mt (Flt.value_eq_zero_iff y).mpr h)]
      exact ⟨Flt.isInfinity_inf hsign, Flt.isInfinity_inf hsign⟩
    · rw [← Flt.sign_eq_true_iff, Flt.sign_zero, hsign]
  · rw [Flt.div_finite_zero nan hx ((Flt.value_eq_zero_iff y).mp hzero)]
    refine ⟨fun h => ?_, fun h => ?_⟩
    · rwa [if_pos ((Flt.value_eq_zero_iff x).mp h)]
    · rw [if_neg (mt (Flt.value_eq_zero_iff x).mpr h)]
      exact Flt.isInfinity_inf (Flt.sign_bne_iff x y)

/-! ### Comparison -/

/-- The magnitudes, continued to the negative integers. -/
def Flt.ofKey (k : ℤ) : ℚ := Flt.sgn (k < 0) * Flt.magnitude k.natAbs

@[simp] theorem Flt.ofKey_natCast (n : ℕ) : Flt.ofKey n = Flt.magnitude n := by
  simp [Flt.ofKey, Flt.sgn]

@[simp] theorem Flt.ofKey_neg_natCast (n : ℕ) : Flt.ofKey (-n) = -Flt.magnitude n := by
  rcases n.eq_zero_or_pos with rfl | hn
  · simp [Flt.ofKey]
  · simp [Flt.ofKey, Flt.sgn, hn]

theorem Flt.ofKey_strictMono : StrictMono Flt.ofKey := by
  have hmono : ∀ {m n : ℕ}, m < n → Flt.magnitude m < Flt.magnitude n := fun h => Flt.magnitude_strictMono h
  intro j k hjk
  obtain ⟨m, rfl | rfl⟩ := j.eq_nat_or_neg <;> obtain ⟨n, rfl | rfl⟩ := k.eq_nat_or_neg
  · simpa using hmono (by omega)
  · omega
  · rw [Flt.ofKey_neg_natCast, Flt.ofKey_natCast]
    rcases m.eq_zero_or_pos with rfl | hm
    · simpa using hmono (show 0 < n by omega)
    · have := hmono hm
      linarith [Flt.magnitude_nonneg n, Flt.magnitude_zero]
  · simpa using hmono (by omega)

theorem Flt.key_eq (x : Flt) : Flt.key x = if Flt.sign x then -(Flt.magBits x : ℤ) else Flt.magBits x := rfl

theorem Flt.value_eq_ofKey (x : Flt) : value x = Flt.ofKey (Flt.key x) := by
  rw [Flt.value_eq, Flt.key_eq]
  cases Flt.sign x <;> simp [Flt.sgn]

theorem Flt.lt_eq {x y : Flt} (hx : Flt.isNaN x = false) (hy : Flt.isNaN y = false) :
    Flt.lt x y = decide (Flt.key x < Flt.key y) := by
  simp [Flt.lt, hx, hy]

theorem Flt.key_bounds {x : Flt} (h : FiniteValue x) :
    -(Flt.infBits : ℤ) < Flt.key x ∧ Flt.key x < Flt.infBits := by
  rw [Flt.finiteValue_iff] at h
  rw [Flt.key_eq]
  split <;> omega

theorem Flt.key_of_isInf {x : Flt} (h : Flt.isInf x = true) :
    Flt.key x = if Flt.sign x then -(Flt.infBits : ℤ) else Flt.infBits := by
  rw [Flt.key_eq, (Flt.isInf_iff x).mp h]

/-- Settles O36: the keys of finite values are in the order of the values, and those of the infinities at their ends. -/
theorem comparisonIsTheRealOrder : Obligations.ComparisonIsTheRealOrder := by
  unfold Obligations.ComparisonIsTheRealOrder
  intro x y
  refine ⟨fun hx hy => ?_, fun h => ?_, fun hx => ?_, fun hx hy => ?_⟩
  · rw [Flt.lt_eq (Flt.not_isNaN_of_finiteValue hx) (Flt.not_isNaN_of_finiteValue hy), Flt.value_eq_ofKey,
      Flt.value_eq_ofKey, Flt.ofKey_strictMono.lt_iff_lt, decide_eq_true_iff]
  · rcases h with h | h <;> simp [Flt.lt, h]
  · have hnan := Flt.not_isNaN_of_finiteValue hx
    have hnan' : ∀ s, Flt.isNaN (Flt.inf s) = false := by decide
    have hkey : Flt.key (Flt.inf false) = Flt.infBits := by decide
    have hkey' : Flt.key (Flt.inf true) = -(Flt.infBits : ℤ) := by decide
    obtain ⟨hlow, hhigh⟩ := Flt.key_bounds hx
    change Flt.lt x (Flt.inf false) = true ∧ Flt.lt (Flt.inf true) x = true ∧ Flt.lt (Flt.inf false) x = false ∧
      Flt.lt x (Flt.inf true) = false
    rw [Flt.lt_eq hnan (hnan' _), Flt.lt_eq (hnan' _) hnan, Flt.lt_eq (hnan' _) hnan, Flt.lt_eq hnan (hnan' _), hkey,
      hkey']
    simp only [decide_eq_true_iff, decide_eq_false_iff_not]
    omega
  · rw [Flt.lt_eq (Flt.not_isNaN_of_isInf hx) (Flt.not_isNaN_of_isInf hy), Flt.key_of_isInf hx, Flt.key_of_isInf hy,
      ← Flt.sign_eq_true_iff, ← Flt.sign_eq_true_iff]
    cases Flt.sign x <;> cases Flt.sign y <;> decide

/-! ### Rounding to an integer -/

/-- A natural within half a unit of `a`, below or at the half, is nearest to `a` among the integers, and of two equally
near ones the one of larger magnitude. -/
theorem Flt.nearest_natural {a : ℚ} {n : ℕ} (ha : 0 ≤ a) (hlow : (n : ℚ) - 1 / 2 ≤ a) (hhigh : a < n + 1 / 2) (k : ℤ) :
    |(n : ℚ) - a| ≤ |(k : ℚ) - a| ∧ (|(k : ℚ) - a| = |(n : ℚ) - a| → |k| ≤ n) := by
  have hn : |(n : ℚ) - a| ≤ 1 / 2 := abs_le.mpr ⟨by linarith, by linarith⟩
  rcases lt_trichotomy k n with hk | rfl | hk
  · have hk' : (k : ℚ) ≤ n - 1 := by exact_mod_cast Int.le_sub_one_of_lt hk
    have hdist : |(k : ℚ) - a| = a - k := by rw [abs_sub_comm, abs_of_nonneg (by linarith)]
    rw [hdist]
    refine ⟨by linarith, fun heq => ?_⟩
    have hk0 : (-1 : ℚ) < k := by linarith
    have : -1 < k := by exact_mod_cast hk0
    rw [abs_of_nonneg (by omega)]
    omega
  · simp
  · have hk' : (n : ℚ) + 1 ≤ k := by exact_mod_cast Int.add_one_le_of_lt hk
    rw [abs_of_nonneg (show 0 ≤ (k : ℚ) - a by linarith)]
    exact ⟨by linarith, fun heq => by linarith⟩

/-- The magnitude rounded to an integer, ties up. -/
def Flt.roundedMagnitude (x : Flt) : ℕ :=
  if 0 ≤ Flt.exp x then Flt.mant x * 2 ^ (Flt.exp x).toNat else Flt.roundUpHalf (Flt.mant x) (-Flt.exp x).toNat

theorem Flt.roundHalfAway_finite {x : Flt} (h : FiniteValue x) : Flt.roundHalfAway x =
    .fin (if Flt.sign x then -(Flt.roundedMagnitude x : ℤ) else Flt.roundedMagnitude x) := by
  simp [Flt.roundHalfAway, Flt.roundedMagnitude, Flt.not_isNaN_of_finiteValue, Flt.not_isInf_of_finiteValue, h]

/-- The quotient by 2^k rounded with ties up is above it by at most a half, and below it by less. -/
theorem Flt.roundUpHalf_bounds (m k : ℕ) :
    (Flt.roundUpHalf m k : ℚ) - 1 / 2 ≤ m / 2 ^ k ∧ (m : ℚ) / 2 ^ k < Flt.roundUpHalf m k + 1 / 2 := by
  have hpos : (0 : ℚ) < 2 ^ k := by positivity
  have hdiv := Nat.div_add_mod (2 * m + 2 ^ k) (2 ^ (k + 1))
  have hmod := Nat.mod_lt (2 * m + 2 ^ k) (Nat.two_pow_pos (k + 1))
  rw [le_div_iff₀ hpos, div_lt_iff₀ hpos, Flt.roundUpHalf]
  generalize (2 * m + 2 ^ k) / 2 ^ (k + 1) = q at *
  generalize (2 * m + 2 ^ k) % 2 ^ (k + 1) = r at *
  have hdiv' : (2 : ℚ) ^ k * 2 * q + r = 2 * m + 2 ^ k := by exact_mod_cast hdiv
  have hmod' : (r : ℚ) < 2 ^ k * 2 := by exact_mod_cast hmod
  have hr : (0 : ℚ) ≤ r := by positivity
  constructor <;> linarith

theorem Flt.roundedMagnitude_bounds (x : Flt) :
    (Flt.roundedMagnitude x : ℚ) - 1 / 2 ≤ |value x| ∧ |value x| < Flt.roundedMagnitude x + 1 / 2 := by
  rw [Flt.abs_value, Flt.magnitude_magBits, Flt.roundedMagnitude]
  split
  case isTrue h =>
    have hexp : (2 : ℚ) ^ Flt.exp x = 2 ^ (Flt.exp x).toNat := by rw [← zpow_natCast, Int.toNat_of_nonneg h]
    rw [hexp]
    push_cast
    constructor <;> linarith
  case isFalse h =>
    have hexp : (2 : ℚ) ^ Flt.exp x = (2 ^ (-Flt.exp x).toNat)⁻¹ := by
      rw [← zpow_natCast, Int.toNat_of_nonneg (by omega), zpow_neg, inv_inv]
    rw [hexp, ← div_eq_mul_inv]
    exact Flt.roundUpHalf_bounds _ _

/-- Settles O37: the magnitude is rounded with ties up, and the sign put back. -/
theorem roundHalfAwayIsTheNearestInteger : Obligations.RoundHalfAwayIsTheNearestInteger := by
  unfold Obligations.RoundHalfAwayIsTheNearestInteger
  refine ⟨fun x hx => ?_, rfl, rfl, rfl, rfl, fun z => ?_⟩
  · have hvalue : value x = Flt.sgn (Flt.sign x) * |value x| := by rw [Flt.abs_value, ← Flt.value_eq]
    obtain ⟨hlow, hhigh⟩ := Flt.roundedMagnitude_bounds x
    have hnear := Flt.nearest_natural (abs_nonneg (value x)) hlow hhigh
    refine ⟨_, Flt.roundHalfAway_finite hx, ?_⟩
    rw [← forall_and, hvalue]
    simp only [Flt.abs_sub_sgn_mul]
    intro k
    cases Flt.sign x
    · simpa [Flt.sgn] using hnear k
    · simpa [Flt.sgn] using hnear (-k)
  · simp only [clampI32]
    omega

end Sys2Proof.Machine
end

section
/-! PROOFS. The configuration is written by the host's configuration registers and by reset only (rules R48, R282,
R306): the updates of the state and the turns of the agents, each with what it does to `configOf`. -/

namespace Sys2Proof.Machine

open Sys2Proof.Spec

/-! ### Updates of the state -/

/-- Replacing an element by one that `f` does not tell apart from it keeps the list's image under `f`. -/
theorem map_set_of_apply_eq {α β : Type} {l : List α} {k : ℕ} {x y : α} {f : α → β} (hx : l[k]? = some x)
    (hf : f y = f x) : (l.set k y).map f = l.map f := by
  obtain ⟨hk, rfl⟩ := List.getElem?_eq_some_iff.mp hx
  rw [List.map_set, hf, ← List.map_set, List.set_getElem_self]

/-- The configuration part of a group (rule R41). -/
def Group.config (G : Group) : BitVec 7 × Word × Vector LabelConfig Config.tableSize := (G.num, G.maxbf, G.entries)

/-- The coefficients of a low-pass engine (rule R42). -/
def LowPass.config (l : LowPass) : Flt × Flt := (l.k1, l.k2)

/-- The coefficients of a differentiator engine (rule R42). -/
def Diff.config (d : Diff) : Flt × Flt × Flt × Flt × Flt × Flt := (d.k1, d.fs, d.ul, d.ll, d.ud, d.ld)

theorem configOf_eq (s : State) :
    configOf s = ⟨s.ct, s.groups.map Group.config, s.lp.map LowPass.config, s.df.map Diff.config⟩ := rfl

variable {s : State}

theorem configOf_setGroup {g : ℕ} {G G' : Group} (hg : s.groups[g]? = some G) (hG : G'.config = G.config) :
    configOf (s.setGroup g G') = configOf s := by
  simp [configOf_eq, map_set_of_apply_eq hg hG]

theorem configOf_setLp {e : ℕ} {l l' : LowPass} (he : s.lp[e]? = some l) (hl : l'.config = l.config) :
    configOf (s.setLp e l') = configOf s := by
  simp [configOf_eq, map_set_of_apply_eq he hl]

theorem configOf_setDf {e : ℕ} {d d' : Diff} (he : s.df[e]? = some d) (hd : d'.config = d.config) :
    configOf (s.setDf e d') = configOf s := by
  simp [configOf_eq, map_set_of_apply_eq he hd]

theorem Group.config_receive (G : Group) (j : Fin Config.tableSize) (w t : Word) (r : Decoded) :
    (G.receive j w t r).config = G.config := rfl

/-- What restarting and stepping keep of an engine, a spool cycle keeps (rule R250). -/
theorem spoolCycle_engine_keeps {α β : Type} (f : α → β) {restart : Flt → α} {next : Flt → Flt × α} {engine : α} {x : Flt}
    (hrestart : f (restart x) = f engine) (hnext : f (next x).2 = f engine) (sp : Spool) (c : LabelConfig)
    (valid : Bool) : f (spoolCycle restart next engine sp c valid x).engine = f engine := by
  simp only [spoolCycle]
  split_ifs
  · rfl
  · exact hnext
  · exact hrestart
  · exact hnext
  · exact hnext

theorem LowPass.config_spoolCycle (l : LowPass) (nan : ℕ → Flt) (sp : Spool) (c : LabelConfig) (valid : Bool) (x : Flt) :
    (spoolCycle l.clear.preload (l.next nan) l sp c valid x).engine.config = l.config :=
  spoolCycle_engine_keeps LowPass.config (by rfl) (by rfl) sp c valid

theorem Diff.config_spoolCycle (d : Diff) (nan : ℕ → Flt) (sp : Spool) (c : LabelConfig) (valid : Bool) (x : Flt) :
    (spoolCycle d.clear.preload (d.next nan) d sp c valid x).engine.config = d.config :=
  spoolCycle_engine_keeps Diff.config (by rfl) (by rfl) sp c valid

/-! ### Commands and host accesses -/

theorem configOf_drainIter (d : DrainProgress) (s : State) : configOf (drainIter d s) = configOf s := by
  obtain ⟨-, -, -, -, -, -, -, -, -, -, -, hct, hlp, hdf, -, -, -, hgroups⟩ := drainIter_keeps d s
  rcases hgroups with hsame | ⟨G, G', j, w, nan, r, hG, hset, -, -, -, -, rfl⟩
  · rw [configOf_eq, configOf_eq, hct, hsame, hlp, hdf]
  · rw [configOf_eq, configOf_eq, hct, hset, hlp, hdf, map_set_of_apply_eq hG (G.config_receive j w _ r)]

theorem configOf_processReceived {g : ℕ} {G : Group} (hg : s.groups[g]? = some G) (w : Word) :
    configOf (processReceived g G w s).2 = configOf s := by
  rcases processReceived_cases g G w s with ⟨-, h⟩ | ⟨j, code, -, -, h⟩ | ⟨j, r, -, -, h⟩ <;> rw [h]
  exact configOf_setGroup hg (G.config_receive j w _ r)

/-- No command writes a configuration field: it replaces a group or an engine by one with the same configuration, or
touches other fields only (rule R282). -/
theorem configOf_exec {i : Instr} {s t : State} (h : exec i s = .next t) : configOf t = configOf s := by
  apply exec_elim (P := fun t => configOf t = configOf s) i s t h
  case rxw => exact fun g G _ _ hg => configOf_processReceived hg s.opw
  case drain => exact fun g G _ _ _ => configOf_drainIter ⟨g, 0, 0⟩ s
  case tick => exact fun g G _ _ hg => configOf_setGroup hg rfl
  case lp =>
    rintro e l l' - he (⟨-, rfl⟩ | ⟨-, rfl⟩)
    · exact configOf_setLp he rfl
    · exact configOf_setLp he rfl
  case lpstep => exact fun e l _ _ he => configOf_setLp he rfl
  case lpspool =>
    rintro e n valid l c r - - he - rfl
    exact configOf_setLp he (l.config_spoolCycle s.nan l.spool c valid s.opa)
  case df =>
    rintro e d d' - he (⟨-, rfl⟩ | ⟨-, rfl⟩)
    · exact configOf_setDf he rfl
    · exact configOf_setDf he rfl
  case dfstep => exact fun e d _ _ he => configOf_setDf he rfl
  case dfspool =>
    rintro e n valid d c r - - he - rfl
    exact configOf_setDf he (d.config_spoolCycle s.nan d.spool c valid s.opa)
  all_goals intros; rfl

/-- From `s` to `t` the configuration and RUN mode are kept. -/
def KeepsRunConfig (s t : State) : Prop := configOf t = configOf s ∧ t.locked = true

theorem command_keepsRunConfig {c : Word} {s t : State} (hlocked : s.locked = true) (h : command c s = .next t) :
    KeepsRunConfig s t := by
  rcases command_cases c s t h with ⟨i, -, hexec⟩ | ⟨e, -, rfl⟩
  · obtain ⟨-, -, -, -, -, -, -, -, hrun, -, -⟩ := exec_keeps i s t hexec
    exact ⟨configOf_exec hexec, hrun hlocked⟩
  · exact ⟨rfl, hlocked⟩

/-- While LOCKED = 1 a write to a configuration register is ignored, and the other registers hold no configuration
(rule R48). -/
theorem writeReg_keepsRunConfig (hlocked : s.locked = true) (r : Reg) (v : Word) :
    KeepsRunConfig s (writeReg s r v) := by
  have hignored (s' : State) : configWrite s s' = s := if_pos hlocked
  cases r <;> simp only [writeReg, hignored] <;> exact ⟨rfl, hlocked⟩

theorem busWrite_keepsRunConfig (hlocked : s.locked = true) (a : BitVec 16) (v : Word) :
    KeepsRunConfig s (busWrite s a v) := by
  unfold busWrite
  split
  · exact writeReg_keepsRunConfig hlocked _ v
  · exact ⟨rfl, hlocked⟩

theorem access_keepsRunConfig {x : Txn} {s t : State} (hlocked : s.locked = true)
    (h : access command x s = .next t) : KeepsRunConfig s t := by
  rcases access_cases x s t h with rfl | ⟨a, -, rfl⟩ | ⟨a, v, -, -, rfl⟩ | ⟨v, u, -, hcmd, rfl⟩
  · exact ⟨rfl, hlocked⟩
  · exact ⟨rfl, hlocked⟩
  · exact busWrite_keepsRunConfig hlocked a v
  · obtain ⟨hconfig, hrun⟩ := command_keepsRunConfig hlocked hcmd
    exact ⟨hconfig, hrun⟩

theorem drainTurn_keepsRunConfig (hlocked : s.locked = true) (d : DrainProgress) : KeepsRunConfig s (s.drainTurn d) :=
  ⟨configOf_drainIter d s, (drainIter_keeps d s).1.trans hlocked⟩

/-- Settles O13: of the moves of a step only a reset reaches the configuration in RUN mode. -/
theorem lockedConfigurationIsFrozen : Obligations.LockedConfigurationIsFrozen := by
  unfold Obligations.LockedConfigurationIsFrozen
  refine ⟨fun s t h hlocked hreset => ?_, fun i s t => configOf_exec⟩
  rcases step_cases s t h with ⟨d, -, hdrain⟩ | ⟨-, -, rfl⟩ | ⟨rest, -, -, rfl⟩ | ⟨x, rest, -, -, haccess⟩ |
    ⟨n, rest, -, rfl⟩ | ⟨g, ws, rest, -, rfl⟩ | ⟨rest, hagenda, -⟩
  · rcases hdrain with ⟨-, rfl⟩ | ⟨rest, -, rfl⟩
    · exact drainTurn_keepsRunConfig hlocked d
    · exact drainTurn_keepsRunConfig (s := { s with agenda := rest }) hlocked d
  · exact ⟨rfl, hlocked⟩
  · exact ⟨rfl, hlocked⟩
  · exact access_keepsRunConfig (s := { s with agenda := rest }) hlocked haccess
  · exact ⟨rfl, hlocked⟩
  · exact ⟨rfl, hlocked⟩
  · exact absurd hagenda (hreset rest)

end Sys2Proof.Machine
end

section
/-! PROOFS. What a host reads in each register, as a number (rules R32-R47, R75, R78-R82). -/

namespace Sys2Proof.Machine

open Sys2Proof.Spec

/-! ### Packed words -/

theorem num_eq_toNat (b : Bool) : num b = b.toNat := by cases b <;> rfl

theorem bit_toNat (b : Bool) : (bit b).toNat = num b := by cases b <;> rfl

theorem typeCode_eq (m : MsgType) : typeCode m = m.code.toNat := by cases m <;> rfl

theorem half_toNat (x : Flt) (h : Half) : (half x h).toNat = halfNum x h := by
  have hx := x.isLt
  cases h
  · rw [half_lo, BitVec.toNat_ofNat, halfNum, Nat.mod_mod]
  · rw [half_hi, BitVec.toNat_ofNat, halfNum, Nat.mod_eq_of_lt (by omega)]

theorem statusWord_toNat (s : State) :
    (statusWord s).toNat = num s.locked + num s.cfgErr * 2 + num s.cmdErr * 4 := by
  rw [statusWord_eq]
  cases s.locked <;> cases s.cfgErr <;> cases s.cmdErr <;> rfl

/-- With at most four groups and four engines of each kind no field of PARAMS runs into the next (rules R8, R37). -/
theorem paramsWord_toNat {s : State} (h : Safety.SizesOk s) :
    (paramsWord s).toNat = s.groups.length + 16 * s.lp.length + 256 * s.df.length + 4096 * 64 + 524288 * 64 := by
  obtain ⟨-, hgroups, -, hlp, -, hdf, -⟩ := h
  rw [paramsWord, show Config.tableSize = 64 from rfl, BitVec.toNat_ofNat, Nat.mod_eq_of_lt (by omega)]

/-! ### Registers of an entry, a slot and an engine -/

theorem readCfg_toNat (hasEn : Bool) (c : LabelConfig) (r : CfgReg) :
    (readCfg hasEn c r).toNat = cfgHolds hasEn c r := by
  cases r with
  | cfg0 => simp only [readCfg, cfgHolds, cfg0Word_toNat, num_eq_toNat, typeCode_eq]
  | minTx => rfl
  | maxTx => rfl
  | res h => exact half_toNat c.res h
  | minv h => exact half_toNat c.minv h
  | maxv h => exact half_toNat c.maxv h

theorem readSlot_toNat (x : Slot) (r : SlotReg) : (readSlot x r).toNat = slotHolds x r := by
  cases r with
  | raw => rfl
  | flags =>
    have hsm := x.sm.isLt
    have hsdi := x.sdi.isLt
    have hnb := x.nb.toNat_le
    simp only [readSlot, slotHolds, slotFlagsWord_eq, BitVec.toNat_ofNat, num_eq_toNat]
    omega
  | engf h => exact half_toNat x.engf h
  | engi => rfl
  | disc => rfl
  | lastGood => rfl

theorem readLp_toNat (l : LowPass) (r : LpReg) : (readLp l r).toNat = lpHolds l r := by
  cases r with
  | k1 h => exact half_toNat l.k1 h
  | k2 h => exact half_toNat l.k2 h
  | prev h => exact half_toNat l.prev h
  | stat =>
    rw [readLp, lpHolds, lpStatWord_eq]
    cases l.pre <;> cases l.spool.good <;> rfl
  | spcnt => rfl

theorem readDf_toNat (d : Diff) (r : DfReg) : (readDf d r).toNat = dfHolds d r := by
  cases r with
  | k1 h => exact half_toNat d.k1 h
  | fs h => exact half_toNat d.fs h
  | ul h => exact half_toNat d.ul h
  | ll h => exact half_toNat d.ll h
  | ud h => exact half_toNat d.ud h
  | ld h => exact half_toNat d.ld h
  | pin h => exact half_toNat d.pin h
  | pout h => exact half_toNat d.pout h
  | stat =>
    rw [readDf, dfHolds, dfStatWord_eq]
    cases d.spool.good <;> rfl
  | spcnt => rfl

/-! ### All registers -/

/-- A register of a list's element that exists is read there, and holds what the element's register holds. -/
theorem exists_holds_readAt {α : Type} {l : List α} {k : ℕ} (hk : k < l.length) {f : α → Word} {n : α → ℕ}
    (hf : ∀ x, (f x).toNat = n x) : ∃ m, (∃ x, l[k]? = some x ∧ m = n x) ∧ (readAt l k f).toNat = m := by
  have hx : l[k]? = some l[k] := List.getElem?_eq_getElem hk
  exact ⟨n l[k], ⟨l[k], hx, rfl⟩, by rw [readAt_some l k _ f hx, hf]⟩

/-- Settles O9: by the kind of register, with PARAMS the one that needs the legal sizes. -/
theorem registersHoldTheFieldsOfTheirLayout : Obligations.RegistersHoldTheFieldsOfTheirLayout := by
  unfold Obligations.RegistersHoldTheFieldsOfTheirLayout
  intro s r hsizes hmapped
  cases r with
  | params => exact ⟨_, rfl, paramsWord_toNat hsizes⟩
  | status => exact ⟨_, rfl, statusWord_toNat s⟩
  | opa h => exact ⟨_, rfl, half_toNat s.opa h⟩
  | outa h => exact ⟨_, rfl, half_toNat s.outa h⟩
  | gnum g => exact exists_holds_readAt hmapped fun G => BitVec.toNat_setWidth_of_le (by decide)
  | gmaxbf g => exact exists_holds_readAt hmapped fun _ => rfl
  | gcnt g => exact exists_holds_readAt hmapped fun _ => rfl
  | gstat g => exact exists_holds_readAt hmapped fun G => bit_toNat G.failed
  | lp e r => exact exists_holds_readAt hmapped fun l => readLp_toNat l r
  | df e r => exact exists_holds_readAt hmapped fun d => readDf_toNat d r
  | ct t r => exact ⟨_, rfl, readCfg_toNat true s.ct[t] r⟩
  | entry g j r => exact exists_holds_readAt hmapped fun G => readCfg_toNat false G.entries[j] r
  | slot g j r => exact exists_holds_readAt hmapped fun G => readSlot_toNat G.slots[j] r
  | _ => exact ⟨_, rfl, rfl⟩

end Sys2Proof.Machine
end

section
/-! PROOFS. The turns of the host and of the environment (rules R72, R73, R76, R84, R85, R205): an access that breaks
rule R73, a command written to CMD, a move of the environment, and a host that waits for a DRAIN. -/

namespace Sys2Proof.Machine

open Sys2Proof.Spec

/-! ### Host transactions -/

theorem accessOk_iff (a : BitVec 16) (bytes : ℕ) : accessOk a bytes = true ↔ Legal a bytes := by
  simp [accessOk, Legal, Nat.dvd_iff_mod_eq_zero]

/-- With no DRAIN in progress a host transaction at the head of the agenda is taken off and answered. -/
theorem step_host {s : State} {x : Txn} {rest : List Event} (hdrain : s.drain = none)
    (hagenda : s.agenda = .host x :: rest) : step s = access command x { s with agenda := rest } := by
  simp [step, turn, hagenda, hdrain]

theorem access_broken {a : BitVec 16} {bytes : ℕ} (h : ¬ Legal a bytes) (s : State) :
    access command (.read a bytes) s = .next { s with resp := .busError } ∧
      ∀ v, access command (.write a bytes v) s = .next { s with resp := .busError } := by
  rw [← accessOk_iff] at h
  simp [access, h]

theorem access_read {a : BitVec 16} (h : 4 ∣ a.toNat) (s : State) :
    access command (.read a 4) s = .next { s with resp := .data (busRead s a) } := by
  simp [access, (accessOk_iff a 4).mpr ⟨rfl, h⟩]

theorem access_write {a : BitVec 16} (h : 4 ∣ a.toNat) (hcmd : a ≠ cmdAddr) (v : Word) (s : State) :
    access command (.write a 4 v) s = .next { busWrite s a v with resp := .done } := by
  simp [access, (accessOk_iff a 4).mpr ⟨rfl, h⟩, hcmd]

theorem access_command {c : Word} {i : Instr} (h : decode c = .ok i) {s t : State} (ht : exec i s = .next t) :
    access command (.write cmdAddr 4 c) s = .next (answerCommand t) := by
  simp [access, (accessOk_iff cmdAddr 4).mpr ⟨rfl, by decide⟩, commandWrite, command, h, ht]

theorem answerCommand_eq (t : State) :
    answerCommand t = { t with resp := if t.drain = none then .done else .stalled } := by
  cases h : t.drain <;> simp [answerCommand, h]

/-- Settles O5: a write to CMD is a legal access, and every command answers. -/
theorem stepRunsTheDecodedCommand : Obligations.StepRunsTheDecodedCommand := by
  unfold Obligations.StepRunsTheDecodedCommand
  intro s rest c i hdrain hagenda hdecode
  obtain ⟨t, ht⟩ := exec_answers i { s with agenda := rest }
  exact ⟨t, ht, by rw [step_host hdrain hagenda, ← answerCommand_eq]; exact access_command hdecode ht⟩

/-- Settles O7: the port refuses the access before it looks at the address. -/
theorem brokenAccessesGetABusError : Obligations.BrokenAccessesGetABusError := by
  unfold Obligations.BrokenAccessesGetABusError
  intro s rest a bytes v hdrain hbroken hagenda
  obtain ⟨hread, hwrite⟩ := access_broken hbroken { s with agenda := rest }
  rcases hagenda with hagenda | hagenda
  · rw [step_host hdrain hagenda, hread]
  · rw [step_host hdrain hagenda, hwrite]

/-! ### The environment -/

/-- Settles O15: both moves are taken off the agenda whether or not a DRAIN runs. -/
theorem environmentMovesTouchOnlyTheInputs : Obligations.EnvironmentMovesTouchOnlyTheInputs := by
  unfold Obligations.EnvironmentMovesTouchOnlyTheInputs
  refine ⟨fun s rest n hagenda => by simp [step, turn, hagenda, State.inputMove],
    fun s rest g ws p hagenda hport => ?_⟩
  refine ⟨State.rxAppend { s with agenda := rest } g ws, by simp [step, turn, hagenda, State.inputMove], ?_, ?_, rfl, rfl,
    rfl⟩
  · simp [hport]
  · intro g' hg'
    simp [hg'.symm]

/-! ### A waiting host -/

theorem rxReady_iff (s : State) (g : ℕ) : s.rxReady g = true ↔ PortReady s g := by
  unfold State.rxReady PortReady
  cases s.env.ports[g]? <;> simp

theorem drainWord_result (g : ℕ) (w : Word) (s : State) : (drainWord g w s).2.result = s.result := by
  rcases drainWord_cases g w s with h | ⟨G, j, r, -, -, -, -, h⟩ <;> rw [h]
  simp

theorem drainIter_agenda (d : DrainProgress) (s : State) : (drainIter d s).agenda = s.agenda := by
  obtain ⟨-, -, -, -, -, -, -, -, -, -, -, -, -, -, hagenda, -⟩ := drainIter_keeps d s
  exact hagenda

/-- The end of a DRAIN answers the write to CMD, with Success in RESULT (rules R72, R205). -/
theorem answerCommand_drainDone (s : State) (d : DrainProgress) :
    (answerCommand (s.drainDone d)).drain = none ∧ (answerCommand (s.drainDone d)).resp = .done ∧
      (answerCommand (s.drainDone d)).result = 0x2100 :=
  ⟨rfl, rfl, (State.drainDone_result s d).trans (by decide)⟩

/-- Settles O43: the turn is one iteration of the DRAIN, by what an iteration can do. -/
theorem hostWaitsWhileDrainRuns : Obligations.HostWaitsWhileDrainRuns := by
  unfold Obligations.HostWaitsWhileDrainRuns
  intro s d x rest hdrain hlt hagenda
  have hstep : step s = .next (answerCommand (drainIter d s)) := (step_drain s d hdrain).1 (.inr ⟨x, rest, hagenda⟩)
  refine ⟨_, hstep, drainIter_agenda d s, ?_⟩
  rw [← rxReady_iff]
  rcases drainIter_cases d s with ⟨hready, hiter⟩ | ⟨p, hready, rfl, ⟨hmax, hiter⟩ | ⟨hmax, hiter⟩⟩ <;>
    rw [hiter]
  · exact ⟨fun _ => answerCommand_drainDone s d, fun h => by simp [hready] at h⟩
  · refine ⟨fun _ => answerCommand_drainDone _ _, fun _ h => ?_⟩
    simp only [Config.drainMax] at hmax
    omega
  · simp only [Config.drainMax] at hmax
    refine ⟨fun h => ?_, fun _ _ => ⟨_, rfl, rfl, rfl, rfl, ?_⟩⟩
    · rcases h with h | h
      · exact absurd hready h
      · omega
    · exact drainWord_result d.grp _ _

end Sys2Proof.Machine
end

section
/-! PROOFS. The address map (rules R79-R82): each region of `regAt` against the addresses of the tables. -/

namespace Sys2Proof.Machine

open Sys2Proof.Spec

/-! ### The tables of offsets -/

theorem mem_of_lookup_eq_some {β : Type} {l : List (ℕ × β)} {o : ℕ} {r : β} (h : l.lookup o = some r) : (o, r) ∈ l := by
  obtain ⟨l₁, l₂, rfl, -⟩ := List.lookup_eq_some_iff.mp h
  simp

theorem cfgMap_lookup {o : ℕ} {r : CfgReg} : cfgMap.lookup o = some r ↔ cfgOff r = o := by
  refine ⟨fun h => (by decide : ∀ p ∈ cfgMap, cfgOff p.2 = p.1) _ (mem_of_lookup_eq_some h), ?_⟩
  rintro rfl
  cases r with
  | cfg0 | minTx | maxTx => rfl
  | res h | minv h | maxv h => cases h <;> rfl

theorem slotMap_lookup {o : ℕ} {r : SlotReg} : slotMap.lookup o = some r ↔ slotOff r = o := by
  refine ⟨fun h => (by decide : ∀ p ∈ slotMap, slotOff p.2 = p.1) _ (mem_of_lookup_eq_some h), ?_⟩
  rintro rfl
  cases r with
  | engf h => cases h <;> rfl
  | _ => rfl

theorem lpMap_lookup {o : ℕ} {r : LpReg} : lpMap.lookup o = some r ↔ lpOff r = o := by
  refine ⟨fun h => (by decide : ∀ p ∈ lpMap, lpOff p.2 = p.1) _ (mem_of_lookup_eq_some h), ?_⟩
  rintro rfl
  cases r with
  | k1 h | k2 h | prev h => cases h <;> rfl
  | stat | spcnt => rfl

theorem dfMap_lookup {o : ℕ} {r : DfReg} : dfMap.lookup o = some r ↔ dfOff r = o := by
  refine ⟨fun h => (by decide : ∀ p ∈ dfMap, dfOff p.2 = p.1) _ (mem_of_lookup_eq_some h), ?_⟩
  rintro rfl
  cases r with
  | k1 h | fs h | ul h | ll h | ud h | ld h | pin h | pout h => cases h <;> rfl
  | stat | spcnt => rfl

/-- Offsets are aligned and stay inside their element's part of the region. -/
theorem cfgOff_bounds (r : CfgReg) : 4 ∣ cfgOff r ∧ cfgOff r < 0x40 :=
  (by decide : ∀ p ∈ cfgMap, 4 ∣ p.1 ∧ p.1 < 0x40) _ (mem_of_lookup_eq_some (cfgMap_lookup.mpr rfl))

theorem slotOff_bounds (r : SlotReg) : 4 ∣ slotOff r ∧ 0x40 ≤ slotOff r ∧ slotOff r < 0x80 :=
  (by decide : ∀ p ∈ slotMap, 4 ∣ p.1 ∧ 0x40 ≤ p.1 ∧ p.1 < 0x80) _ (mem_of_lookup_eq_some (slotMap_lookup.mpr rfl))

theorem lpOff_bounds (r : LpReg) : 4 ∣ lpOff r ∧ lpOff r < 0x40 :=
  (by decide : ∀ p ∈ lpMap, 4 ∣ p.1 ∧ p.1 < 0x40) _ (mem_of_lookup_eq_some (lpMap_lookup.mpr rfl))

theorem dfOff_bounds (r : DfReg) : 4 ∣ dfOff r ∧ dfOff r < 0x80 :=
  (by decide : ∀ p ∈ dfMap, 4 ∣ p.1 ∧ p.1 < 0x80) _ (mem_of_lookup_eq_some (dfMap_lookup.mpr rfl))

/-! ### The regions -/

theorem regAt_group {g o : ℕ} (hg : g < 4) (ho : o < 0x10) :
    regAt (0x0100 + 0x10 * g + o) = (groupMap g).lookup o := by
  have hdiv : (0x0100 + 0x10 * g + o - 0x0100) / 0x10 = g := by omega
  have hmod : (0x0100 + 0x10 * g + o - 0x0100) % 0x10 = o := by omega
  rw [regAt, if_neg (by omega), if_pos (by omega), hdiv, hmod]

theorem regAt_lp {e : ℕ} (he : e < 4) (r : LpReg) : regAt (addressOf (.lp e r)) = some (.lp e r) := by
  obtain ⟨-, ho⟩ := lpOff_bounds r
  have hdiv : (0x0200 + 0x40 * e + lpOff r - 0x0200) / 0x40 = e := by omega
  have hmod : (0x0200 + 0x40 * e + lpOff r - 0x0200) % 0x40 = lpOff r := by omega
  rw [addressOf, regAt, if_neg (by omega), if_neg (by omega), if_pos (by omega), hdiv, hmod, lpMap_lookup.mpr rfl,
    Option.map_some]

theorem regAt_df {e : ℕ} (he : e < 4) (r : DfReg) : regAt (addressOf (.df e r)) = some (.df e r) := by
  obtain ⟨-, ho⟩ := dfOff_bounds r
  have hdiv : (0x0400 + 0x80 * e + dfOff r - 0x0400) / 0x80 = e := by omega
  have hmod : (0x0400 + 0x80 * e + dfOff r - 0x0400) % 0x80 = dfOff r := by omega
  rw [addressOf, regAt, if_neg (by omega), if_neg (by omega), if_neg (by omega), if_pos (by omega), hdiv, hmod,
    dfMap_lookup.mpr rfl, Option.map_some]

theorem tableIndex_eq {off stride : ℕ} {j : Fin Config.tableSize} (h : off / stride % 64 = j.val) :
    tableIndex off stride = j :=
  Fin.ext h

theorem tableIndex_val (off stride : ℕ) : (tableIndex off stride).val = off / stride % 64 := rfl

theorem regAt_ct (t : Fin Config.tableSize) (r : CfgReg) : regAt (addressOf (.ct t r)) = some (.ct t r) := by
  obtain ⟨-, ho⟩ := cfgOff_bounds r
  have ht : t.val < 64 := t.isLt
  have hmod : (0x0800 + 0x40 * t.val + cfgOff r - 0x0800) % 0x40 = cfgOff r := by omega
  rw [addressOf, regAt, if_neg (by omega), if_neg (by omega), if_neg (by omega), if_neg (by omega), if_pos (by omega),
    hmod, cfgMap_lookup.mpr rfl, Option.map_some, tableIndex_eq (j := t) (by omega)]

/-- The region of the groups' entries, by group, entry and offset in the entry. -/
theorem regAt_groupEntry {g o : ℕ} (hg : g < 4) (j : Fin Config.tableSize) (ho : o < 0x80) :
    regAt (0x2000 + 0x2000 * g + 0x80 * j.val + o) =
      if o < 0x40 then (cfgMap.lookup o).map (.entry g j) else (slotMap.lookup o).map (.slot g j) := by
  have hj : j.val < 64 := j.isLt
  have hdiv : (0x2000 + 0x2000 * g + 0x80 * j.val + o - 0x2000) / 0x2000 = g := by omega
  have hmod : (0x2000 + 0x2000 * g + 0x80 * j.val + o - 0x2000) % 0x80 = o := by omega
  rw [regAt, if_neg (by omega), if_neg (by omega), if_neg (by omega), if_neg (by omega), if_neg (by omega),
    if_pos (by omega), hdiv, hmod, tableIndex_eq (j := j) (by omega)]

theorem regAt_entry {g : ℕ} (hg : g < 4) (j : Fin Config.tableSize) (r : CfgReg) :
    regAt (addressOf (.entry g j r)) = some (.entry g j r) := by
  obtain ⟨-, ho⟩ := cfgOff_bounds r
  rw [addressOf, regAt_groupEntry hg j (by omega), if_pos ho, cfgMap_lookup.mpr rfl, Option.map_some]

theorem regAt_slot {g : ℕ} (hg : g < 4) (j : Fin Config.tableSize) (r : SlotReg) :
    regAt (addressOf (.slot g j r)) = some (.slot g j r) := by
  obtain ⟨-, hlow, hhigh⟩ := slotOff_bounds r
  rw [addressOf, regAt_groupEntry hg j hhigh, if_neg (by omega), slotMap_lookup.mpr rfl, Option.map_some]

/-! ### The whole map -/

/-- The map finds every register of the largest implementation at its address. -/
theorem regAt_addressOf {r : Reg} (h : RegExists 4 4 4 r) : regAt (addressOf r) = some r := by
  cases r with
  | gnum g => exact regAt_group (o := 0x0) h (by decide)
  | gmaxbf g => exact (congrArg regAt (by rw [addressOf]; omega)).trans (regAt_group (o := 0x4) h (by decide))
  | gcnt g => exact (congrArg regAt (by rw [addressOf]; omega)).trans (regAt_group (o := 0x8) h (by decide))
  | gstat g => exact (congrArg regAt (by rw [addressOf]; omega)).trans (regAt_group (o := 0xC) h (by decide))
  | lp e r => exact regAt_lp h r
  | df e r => exact regAt_df h r
  | ct t r => exact regAt_ct t r
  | entry g j r => exact regAt_entry h j r
  | slot g j r => exact regAt_slot h j r
  | opa k | outa k => cases k <;> rfl
  | _ => rfl

theorem controlMap_addresses : ∀ p ∈ controlMap, RegExists 4 4 4 p.2 ∧ addressOf p.2 = p.1 := by
  simp [controlMap, RegExists, addressOf, halfOff]

theorem groupMap_addresses {g : ℕ} (hg : g < 4) :
    ∀ p ∈ groupMap g, RegExists 4 4 4 p.2 ∧ addressOf p.2 = 0x0100 + 0x10 * g + p.1 := by
  simp [groupMap, RegExists, addressOf, hg]
  omega

theorem regExists_ct (t : Fin Config.tableSize) (r : CfgReg) : RegExists 4 4 4 (.ct t r) := trivial

/-- What the map finds at an address is a register of the largest implementation that has this address. -/
theorem addressOf_of_regAt {a : ℕ} {r : Reg} (h : regAt a = some r) : RegExists 4 4 4 r ∧ addressOf r = a := by
  simp only [regAt] at h
  split_ifs at h with hcontrol hgroup hlp hdf hct hentry hcfg
  · exact controlMap_addresses _ (mem_of_lookup_eq_some h)
  · obtain ⟨hexists, haddr⟩ := groupMap_addresses (by omega) _ (mem_of_lookup_eq_some h)
    exact ⟨hexists, haddr.trans (by dsimp only; omega)⟩
  · obtain ⟨x, hx, rfl⟩ := Option.map_eq_some_iff.mp h
    have hoff := lpMap_lookup.mp hx
    refine ⟨(by omega : (a - 0x0200) / 0x40 < 4), ?_⟩
    rw [addressOf]
    omega
  · obtain ⟨x, hx, rfl⟩ := Option.map_eq_some_iff.mp h
    have hoff := dfMap_lookup.mp hx
    refine ⟨(by omega : (a - 0x0400) / 0x80 < 4), ?_⟩
    rw [addressOf]
    omega
  · obtain ⟨x, hx, rfl⟩ := Option.map_eq_some_iff.mp h
    have hoff := cfgMap_lookup.mp hx
    refine ⟨regExists_ct _ x, ?_⟩
    rw [addressOf, tableIndex_val]
    omega
  · obtain ⟨x, hx, rfl⟩ := Option.map_eq_some_iff.mp h
    have hoff := cfgMap_lookup.mp hx
    refine ⟨(by omega : (a - 0x2000) / 0x2000 < 4), ?_⟩
    rw [addressOf, tableIndex_val]
    omega
  · obtain ⟨x, hx, rfl⟩ := Option.map_eq_some_iff.mp h
    have hoff := slotMap_lookup.mp hx
    refine ⟨(by omega : (a - 0x2000) / 0x2000 < 4), ?_⟩
    rw [addressOf, tableIndex_val]
    omega

theorem addressOf_bounds {r : Reg} (h : RegExists 4 4 4 r) : addressOf r < 2 ^ 16 ∧ 4 ∣ addressOf r := by
  cases r with
  | gnum g | gmaxbf g | gcnt g | gstat g =>
    have hg : g < 4 := h
    rw [addressOf]
    omega
  | lp e r =>
    have he : e < 4 := h
    have hoff := lpOff_bounds r
    rw [addressOf]
    omega
  | df e r =>
    have he : e < 4 := h
    have hoff := dfOff_bounds r
    rw [addressOf]
    omega
  | ct t r =>
    have ht : t.val < 64 := t.isLt
    have hoff := cfgOff_bounds r
    rw [addressOf]
    omega
  | entry g j r =>
    have hg : g < 4 := h
    have hj : j.val < 64 := j.isLt
    have hoff := cfgOff_bounds r
    rw [addressOf]
    omega
  | slot g j r =>
    have hg : g < 4 := h
    have hj : j.val < 64 := j.isLt
    have hoff := slotOff_bounds r
    rw [addressOf]
    omega
  | opa k | outa k => cases k <;> decide
  | _ => decide

/-- Settles O8: the map and the addresses are inverse to each other. -/
theorem registersHaveTheirAddresses : Obligations.RegistersHaveTheirAddresses := by
  unfold Obligations.RegistersHaveTheirAddresses
  refine ⟨fun r h => ?_, fun a r => addressOf_of_regAt⟩
  obtain ⟨hlt, haligned⟩ := addressOf_bounds h
  exact ⟨hlt, haligned, regAt_addressOf h⟩

end Sys2Proof.Machine
end

section
/-! PROOFS. The fields of a register (rules R33-R43, R75, R80-R82): a field in its place is the word under the field's
mask, so what is written is read back without the reserved bits. -/

namespace Sys2Proof.Machine

open Sys2Proof.Spec

/-! ### Fields in their place -/

theorem getLsbD_mask (k i : ℕ) : (mask k).getLsbD i = (decide (i < 32) && decide (i < k)) := by
  simp [mask, BitVec.getLsbD_ofNat, Nat.testBit_two_pow_sub_one]

/-- A field of a word, put back in its place, is the word under the field's mask. -/
theorem extractLsb'_in_place (v : Word) (lo k : ℕ) :
    (v.extractLsb' lo k).setWidth 32 <<< lo = v &&& mask k <<< lo := by
  apply BitVec.eq_of_getLsbD_eq
  intro i hi
  simp only [BitVec.getLsbD_shiftLeft, BitVec.getLsbD_setWidth, BitVec.getLsbD_extractLsb', BitVec.getLsbD_and,
    getLsbD_mask]
  by_cases hlo : i < lo
  · simp [hlo]
  · have hi' : i - lo < 32 := by omega
    simp [hlo, hi, hi', show lo + (i - lo) = i by omega, Bool.and_comm]

theorem setWidth_extractLsb'_zero (v : Word) (k : ℕ) : (v.extractLsb' 0 k).setWidth 32 = v &&& mask k := by
  simpa using extractLsb'_in_place v 0 k

theorem setWidth_in_place (v : Word) {k : ℕ} (hk : k ≤ 32) : (v.setWidth k).setWidth 32 = v &&& mask k := by
  rw [BitVec.setWidth_eq_extractLsb' hk, setWidth_extractLsb'_zero]

theorem bit_eq_setWidth (b : Bool) : bit b = (BitVec.ofBool b).setWidth 32 := by cases b <;> rfl

theorem bit_in_place (v : Word) (k : ℕ) : bit (v.getLsbD k) <<< k = v &&& mask 1 <<< k := by
  have hbit : BitVec.ofBool (v.getLsbD k) = v.extractLsb' k 1 := by
    apply BitVec.eq_of_getLsbD_eq
    intro i hi
    obtain rfl : i = 0 := by omega
    simp
  rw [← extractLsb'_in_place, bit_eq_setWidth, hbit]

theorem and_ones (v : Word) : v &&& 0xFFFFFFFF = v := BitVec.and_allOnes

/-- A field in its place has no bit where its mask has none. -/
theorem setWidth_shiftLeft_and {k : ℕ} (x : BitVec k) {lo : ℕ} {m : Word} (hm : mask k <<< lo &&& m = 0) :
    x.setWidth 32 <<< lo &&& m = 0 := by
  have hfield : x.setWidth 32 <<< lo &&& mask k <<< lo = x.setWidth 32 <<< lo := by
    apply BitVec.eq_of_getLsbD_eq
    intro i hi
    simp only [BitVec.getLsbD_shiftLeft, BitVec.getLsbD_setWidth, BitVec.getLsbD_and, getLsbD_mask]
    by_cases hx : x.getLsbD (i - lo) = true
    · simp [hx, BitVec.lt_of_getLsbD hx]
    · simp [hx]
  rw [← hfield, BitVec.and_assoc, hm]
  exact BitVec.and_zero

theorem setWidth_and {k : ℕ} (x : BitVec k) {m : Word} (hm : mask k &&& m = 0) : x.setWidth 32 &&& m = 0 := by
  simpa using setWidth_shiftLeft_and x (lo := 0) (by simpa using hm)

theorem bit_and (b : Bool) {m : Word} (hm : mask 1 &&& m = 0) : bit b &&& m = 0 := by
  rw [bit_eq_setWidth]
  exact setWidth_and _ hm

theorem bit_shiftLeft_and (b : Bool) {lo : ℕ} {m : Word} (hm : mask 1 <<< lo &&& m = 0) : bit b <<< lo &&& m = 0 := by
  rw [bit_eq_setWidth]
  exact setWidth_shiftLeft_and _ hm

theorem or_and_eq_zero {x y m : Word} (hx : x &&& m = 0) (hy : y &&& m = 0) : (x ||| y) &&& m = 0 := by
  rw [BitVec.and_or_distrib_right, hx, hy]
  exact BitVec.or_zero

theorem and_eq_zero_of_toNat_lt {w m : Word} {k : ℕ} (hw : w.toNat < 2 ^ k) (hm : mask k &&& m = 0) : w &&& m = 0 := by
  have hfield : (w.setWidth k).setWidth 32 = w := by
    apply BitVec.eq_of_toNat_eq
    rw [BitVec.toNat_setWidth, BitVec.toNat_setWidth, Nat.mod_eq_of_lt hw, Nat.mod_eq_of_lt w.isLt]
  rw [← hfield]
  exact setWidth_and _ hm

/-- Clearing bits outside a field keeps the field. -/
theorem extractLsb'_and_of_ones {m : Word} {lo k : ℕ} (hm : m.extractLsb' lo k = BitVec.allOnes k) (v : Word) :
    (v &&& m).extractLsb' lo k = v.extractLsb' lo k := by
  rw [BitVec.extractLsb'_and, hm, BitVec.and_allOnes]

/-! ### Registers of an entry and an engine, written and read back -/

/-- Writing one register of a pair keeps the other (rule R75). -/
theorem half_setHalf_ne {α : Type} {R : Half → α} {h k : Half} (hne : R k ≠ R h) (x : Flt) (v : Word) :
    half (setHalf x h v) k = half x k := by
  cases h with
  | lo =>
    cases k with
    | lo => exact absurd rfl hne
    | hi => exact half_hi_setHalf_lo x v
  | hi =>
    cases k with
    | lo => exact half_lo_setHalf_hi x v
    | hi => exact absurd rfl hne

theorem msgTypeOf_code (c : BitVec 2) : (msgTypeOf c).code = c := by revert c; decide

/-- The bits of a LabelConfig register that are not reserved (rules R39, R81, R82). -/
def cfgBits (hasEn : Bool) : CfgReg → Word
  | .cfg0 => if hasEn then 0x803FFFFF else 0x003FFFFF
  | _ => 0xFFFFFFFF

theorem fieldBits_ct (t : Fin Config.tableSize) (r : CfgReg) : fieldBits (.ct t r) = cfgBits true r := by cases r <;> rfl

theorem fieldBits_entry (g : ℕ) (j : Fin Config.tableSize) (r : CfgReg) :
    fieldBits (.entry g j r) = cfgBits false r := by cases r <;> rfl

theorem cfg0Word_setCfg0 (hasEn : Bool) (c : LabelConfig) (v : Word) :
    cfg0Word hasEn (setCfg0 hasEn c v) = v &&& cfgBits hasEn .cfg0 := by
  simp only [cfg0Word, setCfg0, msgTypeOf_code, setWidth_extractLsb'_zero, extractLsb'_in_place, bit_in_place]
  cases hasEn with
  | true =>
    simp only [Bool.true_and, if_true, bit_in_place, ← BitVec.and_or_distrib_left]
    rfl
  | false =>
    have hbit : bit false <<< 31 = v &&& 0 := BitVec.and_zero.symm
    simp only [Bool.false_and, hbit, ← BitVec.and_or_distrib_left]
    rfl

theorem readCfg_writeCfg_same (hasEn : Bool) (c : LabelConfig) (r : CfgReg) (v : Word) :
    readCfg hasEn (writeCfg hasEn c r v) r = v &&& cfgBits hasEn r := by
  cases r with
  | cfg0 => exact cfg0Word_setCfg0 hasEn c v
  | minTx | maxTx => exact (and_ones v).symm
  | res h | minv h | maxv h => exact (half_setHalf_same _ h v).trans (and_ones v).symm

theorem readCfg_writeCfg_ne (hasEn : Bool) (c : LabelConfig) {r x : CfgReg} (hne : x ≠ r) (v : Word) :
    readCfg hasEn (writeCfg hasEn c r v) x = readCfg hasEn c x := by
  cases r with
  | cfg0 =>
    cases x with
    | cfg0 => exact absurd rfl hne
    | _ => rfl
  | minTx =>
    cases x with
    | minTx => exact absurd rfl hne
    | _ => rfl
  | maxTx =>
    cases x with
    | maxTx => exact absurd rfl hne
    | _ => rfl
  | res h =>
    cases x with
    | res k => exact half_setHalf_ne hne _ v
    | _ => rfl
  | minv h =>
    cases x with
    | minv k => exact half_setHalf_ne hne _ v
    | _ => rfl
  | maxv h =>
    cases x with
    | maxv k => exact half_setHalf_ne hne _ v
    | _ => rfl

theorem readLp_writeLp_same (l : LowPass) {e : ℕ} {r : LpReg} (hr : IsConfig (.lp e r)) (v : Word) :
    readLp (writeLp l r v) r = v &&& fieldBits (.lp e r) := by
  cases r with
  | k1 h | k2 h => exact (half_setHalf_same _ h v).trans (and_ones v).symm
  | prev _ | stat | spcnt => exact hr.elim

theorem readLp_writeLp_ne (l : LowPass) {r x : LpReg} (hne : x ≠ r) (v : Word) :
    readLp (writeLp l r v) x = readLp l x := by
  cases r with
  | k1 h =>
    cases x with
    | k1 k => exact half_setHalf_ne hne _ v
    | _ => rfl
  | k2 h =>
    cases x with
    | k2 k => exact half_setHalf_ne hne _ v
    | _ => rfl
  | prev _ | stat | spcnt => rfl

theorem readDf_writeDf_same (d : Diff) {e : ℕ} {r : DfReg} (hr : IsConfig (.df e r)) (v : Word) :
    readDf (writeDf d r v) r = v &&& fieldBits (.df e r) := by
  cases r with
  | k1 h | fs h | ul h | ll h | ud h | ld h => exact (half_setHalf_same _ h v).trans (and_ones v).symm
  | pin _ | pout _ | stat | spcnt => exact hr.elim

theorem readDf_writeDf_ne (d : Diff) {r x : DfReg} (hne : x ≠ r) (v : Word) :
    readDf (writeDf d r v) x = readDf d x := by
  cases r with
  | k1 h =>
    cases x with
    | k1 k => exact half_setHalf_ne hne _ v
    | _ => rfl
  | fs h =>
    cases x with
    | fs k => exact half_setHalf_ne hne _ v
    | _ => rfl
  | ul h =>
    cases x with
    | ul k => exact half_setHalf_ne hne _ v
    | _ => rfl
  | ll h =>
    cases x with
    | ll k => exact half_setHalf_ne hne _ v
    | _ => rfl
  | ud h =>
    cases x with
    | ud k => exact half_setHalf_ne hne _ v
    | _ => rfl
  | ld h =>
    cases x with
    | ld k => exact half_setHalf_ne hne _ v
    | _ => rfl
  | pin _ | pout _ | stat | spcnt => rfl

end Sys2Proof.Machine
end

section
/-! PROOFS. Host reads and writes (rules R32, R35, R48, R77, R78): a write reaches the one register at its address, and
what is unmapped, reserved, read-only or locked ignores it. -/

namespace Sys2Proof.Machine

open Sys2Proof.Spec

/-! ### Writes of the state -/

theorem configWrite_of_locked {s : State} (h : s.locked = true) (s' : State) : configWrite s s' = s := if_pos h

theorem configWrite_of_unlocked {s : State} (h : s.locked = false) (s' : State) : configWrite s s' = s' :=
  if_neg (by simp [h])

theorem configWrite_self (s : State) : configWrite s s = s := ite_self s

theorem writes_singleton {s t : State} {r : Reg} {w : Word} (hr : readReg t r = w)
    (hkeep : ∀ x, x ≠ r → readReg t x = readReg s x) : Writes s t [(r, w)] :=
  ⟨by simpa using hr, fun x hx => hkeep x (by simpa using hx)⟩

/-- Replacing an element, read elsewhere, or through a reading that the new element keeps. -/
theorem readAt_set_keep {α : Type} {l : List α} {g k : ℕ} {x y : α} {f : α → Word} (hx : l[g]? = some x)
    (hf : k = g → f y = f x) : readAt (l.set g y) k f = readAt l k f := by
  rw [readAt_set l g k x y f hx]
  split
  · next hk => rw [hf hk, hk, readAt_some l g x f hx]
  · rfl

theorem readAt_set_self {α : Type} {l : List α} {g : ℕ} {x : α} (hx : l[g]? = some x) (y : α) (f : α → Word) :
    readAt (l.set g y) g f = f y := by
  rw [readAt_set l g g x y f hx, if_pos rfl]

theorem modify_eq_set {α : Type} {l : List α} {k : ℕ} {x : α} (hx : l[k]? = some x) (f : α → α) :
    l.modify k f = l.set k (f x) := by
  rw [List.modify_eq_set_getElem?, hx]
  rfl

theorem getElem_set_fin {α : Type} {n : ℕ} (v : Vector α n) (i j : Fin n) (x : α) :
    (v.set i x)[j] = if j = i then x else v[j] := by
  simp [Vector.getElem_set, Fin.ext_iff, eq_comm]

/-- Replacing a group by one that differs in one configuration register writes that register (rule R41). -/
theorem writes_setGroup {s : State} {g : ℕ} {G G' : Group} {r : Reg} {w : Word} (hG : s.groups[g]? = some G)
    (hr : readReg (s.setGroup g G') r = w) (hnum : .gnum g ≠ r → G'.num = G.num)
    (hmaxbf : .gmaxbf g ≠ r → G'.maxbf = G.maxbf)
    (hentries : ∀ j x, .entry g j x ≠ r → readCfg false G'.entries[j] x = readCfg false G.entries[j] x)
    (hcnt : G'.cnt = G.cnt) (hfailed : G'.failed = G.failed) (hslots : G'.slots = G.slots) :
    Writes s (s.setGroup g G') [(r, w)] := by
  refine writes_singleton hr fun x hne => ?_
  cases x with
  | gnum k => exact readAt_set_keep hG fun hk => by rw [hnum (hk ▸ hne)]
  | gmaxbf k => exact readAt_set_keep hG fun hk => hmaxbf (hk ▸ hne)
  | gcnt k => exact readAt_set_keep hG fun _ => hcnt
  | gstat k => exact readAt_set_keep hG fun _ => by rw [hfailed]
  | entry k j x => exact readAt_set_keep hG fun hk => hentries j x (hk ▸ hne)
  | slot k j x => exact readAt_set_keep hG fun _ => by rw [hslots]
  | params => simp [readReg, paramsWord]
  | _ => rfl

theorem writes_setLp {s : State} {e : ℕ} {l l' : LowPass} {r : LpReg} {w : Word} (hl : s.lp[e]? = some l)
    (hr : readLp l' r = w) (hkeep : ∀ x, x ≠ r → readLp l' x = readLp l x) :
    Writes s (s.setLp e l') [(.lp e r, w)] := by
  refine writes_singleton ((readAt_set_self hl l' _).trans hr) fun x hne => ?_
  cases x with
  | lp k x => exact readAt_set_keep hl fun hk => hkeep x fun hx => hne (by rw [hk, hx])
  | params => simp [readReg, paramsWord]
  | _ => rfl

theorem writes_setDf {s : State} {e : ℕ} {d d' : Diff} {r : DfReg} {w : Word} (hd : s.df[e]? = some d)
    (hr : readDf d' r = w) (hkeep : ∀ x, x ≠ r → readDf d' x = readDf d x) :
    Writes s (s.setDf e d') [(.df e r, w)] := by
  refine writes_singleton ((readAt_set_self hd d' _).trans hr) fun x hne => ?_
  cases x with
  | df k x => exact readAt_set_keep hd fun hk => hkeep x fun hx => hne (by rw [hk, hx])
  | params => simp [readReg, paramsWord]
  | _ => rfl

/-- An operand register takes the value written, and no other register changes (rule R32). -/
theorem writes_operand {r : Reg} (hr : IsOperand r) (s : State) (v : Word) :
    Writes s (writeReg s r v) [(r, v &&& fieldBits r)] := by
  cases r with
  | opw =>
    refine writes_singleton (and_ones v).symm fun x hne => ?_
    cases x with
    | opw => exact absurd rfl hne
    | _ => rfl
  | opd =>
    refine writes_singleton (and_ones v).symm fun x hne => ?_
    cases x with
    | opd => exact absurd rfl hne
    | _ => rfl
  | opa h =>
    refine writes_singleton ((half_setHalf_same _ h v).trans (and_ones v).symm) fun x hne => ?_
    cases x with
    | opa k => exact half_setHalf_ne hne _ v
    | _ => rfl
  | _ => exact hr.elim

/-- In CONFIG mode a configuration register takes the value written but for its reserved bits, and no other register
changes (rules R39-R42, R48). -/
theorem writes_config {s : State} {r : Reg} (hmapped : Mapped s r) (hr : IsConfig r) (hlocked : s.locked = false)
    (v : Word) : Writes s (writeReg s r v) [(r, v &&& fieldBits r)] := by
  cases r with
  | gnum g =>
    have hG : s.groups[g]? = some s.groups[g] := List.getElem?_eq_getElem hmapped
    rw [writeReg, configWrite_of_unlocked hlocked, modify_eq_set hG]
    refine writes_setGroup hG ?_ (absurd rfl) (fun _ => rfl) (fun _ _ _ => rfl) rfl rfl rfl
    exact (readAt_set_self hG _ _).trans (setWidth_in_place v (by decide))
  | gmaxbf g =>
    have hG : s.groups[g]? = some s.groups[g] := List.getElem?_eq_getElem hmapped
    rw [writeReg, configWrite_of_unlocked hlocked, modify_eq_set hG]
    refine writes_setGroup hG ?_ (fun _ => rfl) (absurd rfl) (fun _ _ _ => rfl) rfl rfl rfl
    exact (readAt_set_self hG _ _).trans (and_ones v).symm
  | lp e r =>
    have hl : s.lp[e]? = some s.lp[e] := List.getElem?_eq_getElem hmapped
    rw [writeReg, configWrite_of_unlocked hlocked, modify_eq_set hl]
    exact writes_setLp hl (readLp_writeLp_same _ hr v) fun x hne => readLp_writeLp_ne _ hne v
  | df e r =>
    have hd : s.df[e]? = some s.df[e] := List.getElem?_eq_getElem hmapped
    rw [writeReg, configWrite_of_unlocked hlocked, modify_eq_set hd]
    exact writes_setDf hd (readDf_writeDf_same _ hr v) fun x hne => readDf_writeDf_ne _ hne v
  | ct t r =>
    rw [writeReg, configWrite_of_unlocked hlocked]
    refine writes_singleton ?_ fun x hne => ?_
    · simp only [readReg, getElem_set_fin, if_true, readCfg_writeCfg_same, fieldBits_ct]
    · cases x with
      | ct u x =>
        simp only [readReg, getElem_set_fin]
        split
        · next hu => rw [readCfg_writeCfg_ne _ _ (fun hx => hne (by rw [hu, hx])), hu]
        · rfl
      | _ => rfl
  | entry g j r =>
    have hG : s.groups[g]? = some s.groups[g] := List.getElem?_eq_getElem hmapped
    rw [writeReg, configWrite_of_unlocked hlocked, modify_eq_set hG]
    refine writes_setGroup hG ?_ (fun _ => rfl) (fun _ => rfl) (fun i x hne => ?_) rfl rfl rfl
    · refine (readAt_set_self hG _ _).trans ?_
      simp only [getElem_set_fin, if_true, readCfg_writeCfg_same, fieldBits_entry]
    · simp only [getElem_set_fin]
      split
      · next hi => rw [readCfg_writeCfg_ne _ _ (fun hx => hne (by rw [hi, hx])), hi]
      · rfl
  | _ => exact hr.elim

/-! ### Registers by address -/

variable {s : State}

theorem regExists_of_mapped (hsizes : Safety.SizesOk s) {r : Reg} (h : Mapped s r) : RegExists 4 4 4 r := by
  obtain ⟨-, hgroups, -, hlp, -, hdf, -⟩ := hsizes
  cases r with
  | gnum g | gmaxbf g | gcnt g | gstat g | entry g j r | slot g j r => exact Nat.lt_of_lt_of_le h hgroups
  | lp e r => exact Nat.lt_of_lt_of_le h hlp
  | df e r => exact Nat.lt_of_lt_of_le h hdf
  | _ => trivial

theorem regAt_of_mapped (hsizes : Safety.SizesOk s) {r : Reg} (h : Mapped s r) {a : ℕ} (ha : addressOf r = a) :
    regAt a = some r := by
  rw [← ha]
  exact regAt_addressOf (regExists_of_mapped hsizes h)

theorem busRead_of_mapped (hsizes : Safety.SizesOk s) {r : Reg} (h : Mapped s r) {a : BitVec 16}
    (ha : addressOf r = a.toNat) : busRead s a = readReg s r := by
  simp only [busRead, regAt_of_mapped hsizes h ha]

theorem busWrite_of_mapped (hsizes : Safety.SizesOk s) {r : Reg} (h : Mapped s r) {a : BitVec 16}
    (ha : addressOf r = a.toNat) (v : Word) : busWrite s a v = writeReg s r v := by
  simp only [busWrite, regAt_of_mapped hsizes h ha]

theorem readAt_of_length_le {α : Type} {l : List α} {k : ℕ} (h : l.length ≤ k) (f : α → Word) : readAt l k f = 0 := by
  simp [readAt, h]

/-- A register of a group or engine that the implementation lacks reads 0 (rule R77). -/
theorem readReg_of_not_mapped {r : Reg} (h : ¬ Mapped s r) : readReg s r = 0 := by
  cases r with
  | gnum g | gmaxbf g | gcnt g | gstat g | lp e r | df e r | entry g j r | slot g j r =>
    exact readAt_of_length_le (Nat.le_of_not_lt h) _
  | _ => exact absurd trivial h

/-- A register of a group or engine that the implementation lacks ignores writes (rule R77). -/
theorem writeReg_of_not_mapped {r : Reg} (h : ¬ Mapped s r) (v : Word) : writeReg s r v = s := by
  cases r with
  | gcnt g | gstat g | slot g j r => rfl
  | gnum g | gmaxbf g | lp e r | df e r | entry g j r =>
    rw [writeReg, List.modify_eq_self (Nat.le_of_not_lt h)]
    exact configWrite_self s
  | _ => exact absurd trivial h

/-- What is at an address that is no register's of this implementation: no register, or one it lacks. -/
theorem regAt_of_unmapped {a : ℕ} (h : ∀ r, Mapped s r → addressOf r ≠ a) {r : Reg} (hr : regAt a = some r) :
    ¬ Mapped s r :=
  fun hmapped => h r hmapped (addressOf_of_regAt hr).2

theorem busRead_of_unmapped {a : BitVec 16} (h : ∀ r, Mapped s r → addressOf r ≠ a.toNat) : busRead s a = 0 := by
  unfold busRead
  split
  · next hr => exact readReg_of_not_mapped (regAt_of_unmapped h hr)
  · rfl

theorem busWrite_of_unmapped {a : BitVec 16} (h : ∀ r, Mapped s r → addressOf r ≠ a.toNat) (v : Word) :
    busWrite s a v = s := by
  unfold busWrite
  split
  · next hr => exact writeReg_of_not_mapped (regAt_of_unmapped h hr) v
  · rfl

/-- A write to a register that is read-only, or locked, is ignored (rules R48, R77). -/
theorem writeReg_of_readOnly {r : Reg} (hoperand : ¬ IsOperand r) (hstatus : r ≠ .status)
    (hconfig : IsConfig r → s.locked = true) (v : Word) : writeReg s r v = s := by
  cases r with
  | opw | opd | opa h => exact absurd trivial hoperand
  | status => exact absurd rfl hstatus
  | gnum g | gmaxbf g | ct t r | entry g j r => exact configWrite_of_locked (hconfig trivial) _
  | lp e r =>
    cases r with
    | k1 h | k2 h => exact configWrite_of_locked (hconfig trivial) _
    | prev h | stat | spcnt =>
      have hsame : s.lp.modify e (fun l => l) = s.lp := List.modify_id e s.lp
      simp only [writeReg, writeLp, hsame, configWrite_self]
  | df e r =>
    cases r with
    | k1 h | fs h | ul h | ll h | ud h | ld h => exact configWrite_of_locked (hconfig trivial) _
    | pin h | pout h | stat | spcnt =>
      have hsame : s.df.modify e (fun d => d) = s.df := List.modify_id e s.df
      simp only [writeReg, writeDf, hsame, configWrite_self]
  | _ => rfl

/-- No register shows the moves to come or the port's answer. -/
theorem readReg_agenda_resp (s : State) (a : List Event) (p : Response) (r : Reg) :
    readReg { s with agenda := a, resp := p } r = readReg s r :=
  readReg_rest s s.drain s.env.ports a p s.free r

theorem writes_agenda_resp {s t : State} {ws : List (Reg × Word)} (h : Writes s t ws) (a : List Event) (p : Response) :
    Writes s { t with agenda := a, resp := p } ws := by
  obtain ⟨hwritten, hkept⟩ := h
  exact ⟨fun w hw => (readReg_agenda_resp t a p w.1).trans (hwritten w hw),
    fun r hr => (readReg_agenda_resp t a p r).trans (hkept r hr)⟩

theorem configWrite_agenda (s s' : State) (a : List Event) :
    configWrite { s with agenda := a } { s' with agenda := a } = { configWrite s s' with agenda := a } := by
  unfold configWrite
  split <;> rfl

theorem writeReg_agenda (s : State) (a : List Event) (r : Reg) (v : Word) :
    writeReg { s with agenda := a } r v = { writeReg s r v with agenda := a } := by
  cases r with
  | gnum g => exact configWrite_agenda s { s with groups := _ } a
  | gmaxbf g => exact configWrite_agenda s { s with groups := _ } a
  | entry g j r => exact configWrite_agenda s { s with groups := _ } a
  | lp e r => exact configWrite_agenda s { s with lp := _ } a
  | df e r => exact configWrite_agenda s { s with df := _ } a
  | ct t r => exact configWrite_agenda s { s with ct := _ } a
  | _ => rfl

/-- A legal read, without a command and without a write (rules R77, R84). -/
theorem step_read {rest : List Event} {a : BitVec 16} (hdrain : s.drain = none)
    (hagenda : s.agenda = .host (.read a 4) :: rest) (haligned : 4 ∣ a.toNat) :
    step s = .next { s with agenda := rest, resp := .data (busRead s a) } := by
  have hbus : busRead { s with agenda := rest } a = busRead s a := by
    unfold busRead
    split
    · exact readReg_agenda_resp s rest s.resp _
    · rfl
  rw [step_host hdrain hagenda, access_read haligned, hbus]

/-- A legal write to an address other than CMD's (rules R72, R77). -/
theorem step_write {rest : List Event} {a : BitVec 16} {v : Word} (hdrain : s.drain = none)
    (hagenda : s.agenda = .host (.write a 4 v) :: rest) (haligned : 4 ∣ a.toNat) (hcmd : a ≠ cmdAddr) :
    step s = .next { busWrite s a v with agenda := rest, resp := .done } := by
  have hbus : busWrite { s with agenda := rest } a v = { busWrite s a v with agenda := rest } := by
    unfold busWrite
    split
    · exact writeReg_agenda s rest _ v
    · rfl
  rw [step_host hdrain hagenda, access_write haligned hcmd, hbus]

/-- A register write reaches neither the environment nor a DRAIN in progress. -/
theorem writeReg_keeps (s : State) (r : Reg) (v : Word) :
    (writeReg s r v).env = s.env ∧ (writeReg s r v).drain = s.drain := by
  have hconfig {s' : State} (h : s'.env = s.env ∧ s'.drain = s.drain) :
      (configWrite s s').env = s.env ∧ (configWrite s s').drain = s.drain := by
    unfold configWrite
    split
    · exact ⟨rfl, rfl⟩
    · exact h
  cases r with
  | gnum g | gmaxbf g | lp e r | df e r | ct t r | entry g j r => exact hconfig ⟨rfl, rfl⟩
  | _ => exact ⟨rfl, rfl⟩

/-- A write to STATUS clears CMDERR where bit 2 is 1, and changes no other register (rule R35). -/
theorem writes_status (s : State) (v : Word) :
    Writes s (writeReg s .status v)
      [(.status, BitVec.ofNat 32 (num s.locked + 2 * num s.cfgErr + 4 * num (s.cmdErr && !v.getLsbD 2)))] := by
  refine writes_singleton ?_ fun x hne => ?_
  · simp only [num_eq_toNat]
    exact statusWord_eq _
  · cases x with
    | status => exact absurd rfl hne
    | _ => rfl

/-! ### Reserved bits -/

theorem readAt_and {α : Type} {l : List α} {k : ℕ} {f : α → Word} {m : Word} (hf : ∀ x, f x &&& m = 0) :
    readAt l k f &&& m = 0 := by
  unfold readAt
  cases l[k]? with
  | some x => exact hf x
  | none => exact BitVec.zero_and

theorem and_not_ones (v : Word) : v &&& ~~~(0xFFFFFFFF : Word) = 0 := BitVec.and_zero

theorem cfg0Word_reserved (hasEn : Bool) (c : LabelConfig) : cfg0Word hasEn c &&& ~~~cfgBits hasEn .cfg0 = 0 := by
  have hen : bit (hasEn && c.en) <<< 31 &&& ~~~cfgBits hasEn .cfg0 = 0 := by
    cases hasEn with
    | true => exact bit_shiftLeft_and _ (by decide)
    | false =>
      rw [Bool.false_and]
      decide
  refine or_and_eq_zero ?_ hen
  refine or_and_eq_zero ?_ (bit_shiftLeft_and _ (by cases hasEn <;> decide))
  refine or_and_eq_zero ?_ (bit_shiftLeft_and _ (by cases hasEn <;> decide))
  refine or_and_eq_zero ?_ (setWidth_shiftLeft_and _ (by cases hasEn <;> decide))
  refine or_and_eq_zero ?_ (setWidth_shiftLeft_and _ (by cases hasEn <;> decide))
  exact or_and_eq_zero (setWidth_and _ (by cases hasEn <;> decide))
    (setWidth_shiftLeft_and _ (by cases hasEn <;> decide))

theorem readCfg_reserved (hasEn : Bool) (c : LabelConfig) (r : CfgReg) :
    readCfg hasEn c r &&& ~~~cfgBits hasEn r = 0 := by
  cases r with
  | cfg0 => exact cfg0Word_reserved hasEn c
  | _ => exact and_not_ones _

theorem readSlot_reserved (x : Slot) (g : ℕ) (j : Fin Config.tableSize) (r : SlotReg) :
    readSlot x r &&& ~~~fieldBits (.slot g j r) = 0 := by
  cases r with
  | flags =>
    rw [fieldBits]
    exact or_and_eq_zero (or_and_eq_zero (setWidth_and _ (by decide)) (setWidth_shiftLeft_and _ (by decide)))
      (bit_shiftLeft_and _ (by decide))
  | _ => exact and_not_ones _

theorem readLp_reserved (l : LowPass) (e : ℕ) (r : LpReg) : readLp l r &&& ~~~fieldBits (.lp e r) = 0 := by
  cases r with
  | stat =>
    rw [fieldBits]
    exact or_and_eq_zero (bit_and _ (by decide)) (bit_shiftLeft_and _ (by decide))
  | _ => exact and_not_ones _

theorem readDf_reserved (d : Diff) (e : ℕ) (r : DfReg) : readDf d r &&& ~~~fieldBits (.df e r) = 0 := by
  cases r with
  | stat =>
    rw [fieldBits]
    exact bit_shiftLeft_and _ (by decide)
  | _ => exact and_not_ones _

/-- Reserved bits read 0 (rule R77). -/
theorem readReg_reserved (hwords : Safety.WordsOk s) (r : Reg) : readReg s r &&& ~~~fieldBits r = 0 := by
  obtain ⟨hresult, -, -, houtf, herrinfo⟩ := hwords
  cases r with
  | status =>
    exact or_and_eq_zero (or_and_eq_zero (bit_and _ (by decide)) (bit_shiftLeft_and _ (by decide)))
      (bit_shiftLeft_and _ (by decide))
  | cmd => exact BitVec.zero_and
  | result =>
    have hlow : s.result.toNat < 2 ^ 16 := by omega
    exact and_eq_zero_of_toNat_lt hlow (by decide)
  | errinfo => exact herrinfo
  | outf => exact and_eq_zero_of_toNat_lt (k := 7) houtf (by decide)
  | gnum g =>
    rw [fieldBits]
    exact readAt_and fun G => setWidth_and G.num (by decide)
  | gstat g =>
    rw [fieldBits]
    exact readAt_and fun G => bit_and G.failed (by decide)
  | lp e r => exact readAt_and fun l => readLp_reserved l e r
  | df e r => exact readAt_and fun d => readDf_reserved d e r
  | ct t r =>
    rw [fieldBits_ct]
    exact readCfg_reserved true s.ct[t] r
  | entry g j r =>
    rw [fieldBits_entry]
    exact readAt_and fun G => readCfg_reserved false G.entries[j] r
  | slot g j r => exact readAt_and fun G => readSlot_reserved G.slots[j] g j r
  | _ => exact and_not_ones _

theorem getLsbD_and_of_one {m : Word} {k : ℕ} (hm : m.getLsbD k = true) (v : Word) :
    (v &&& m).getLsbD k = v.getLsbD k := by
  rw [BitVec.getLsbD_and, hm, Bool.and_true]

theorem setCfg0_and (hasEn : Bool) (c : LabelConfig) (v : Word) :
    setCfg0 hasEn c (v &&& cfgBits hasEn .cfg0) = setCfg0 hasEn c v := by
  have hfield {lo k : ℕ} (hm : (cfgBits hasEn .cfg0).extractLsb' lo k = BitVec.allOnes k) :=
    extractLsb'_and_of_ones hm v
  have hbit {k : ℕ} (hm : (cfgBits hasEn .cfg0).getLsbD k = true) := getLsbD_and_of_one hm v
  unfold setCfg0
  rw [hfield (by cases hasEn <;> decide), hfield (by cases hasEn <;> decide), hfield (by cases hasEn <;> decide),
    hfield (by cases hasEn <;> decide), hbit (by cases hasEn <;> decide), hbit (by cases hasEn <;> decide)]
  cases hasEn with
  | true => rw [if_pos rfl, if_pos rfl, hbit (by decide)]
  | false => rfl

theorem writeCfg_and (hasEn : Bool) (c : LabelConfig) (r : CfgReg) (v : Word) :
    writeCfg hasEn c r (v &&& cfgBits hasEn r) = writeCfg hasEn c r v := by
  cases r with
  | cfg0 => exact setCfg0_and hasEn c v
  | _ => exact congrArg _ (and_ones v)

/-- Reserved bits ignore writes (rule R77). -/
theorem writeReg_and_fieldBits (s : State) (r : Reg) (v : Word) : writeReg s r v = writeReg s r (v &&& fieldBits r) := by
  cases r with
  | status => rw [writeReg, writeReg, fieldBits, getLsbD_and_of_one (by decide)]
  | gnum g =>
    have hnum : (v &&& 0x7F).setWidth 7 = v.setWidth 7 := by
      rw [BitVec.setWidth_eq_extractLsb' (by decide), BitVec.setWidth_eq_extractLsb' (by decide),
        extractLsb'_and_of_ones (by decide)]
    rw [writeReg, writeReg, fieldBits, hnum]
  | lp e r =>
    cases r with
    | k1 h | k2 h => exact congrArg _ (and_ones v).symm
    | prev h | stat | spcnt => rfl
  | df e r =>
    cases r with
    | k1 h | fs h | ul h | ll h | ud h | ld h => exact congrArg _ (and_ones v).symm
    | pin h | pout h | stat | spcnt => rfl
  | ct t r => rw [fieldBits_ct, writeReg, writeReg, writeCfg_and]
  | entry g j r => simp only [fieldBits_entry, writeReg, writeCfg_and]
  | opw | opd | opa h | gmaxbf g => exact congrArg _ (and_ones v).symm
  | _ => rfl

/-! ### The statements -/

/-- Settles O10: the map leads from an address to the register that has it, or to none. -/
theorem readsReturnTheRegisterAndChangeNothing : Obligations.ReadsReturnTheRegisterAndChangeNothing := by
  unfold Obligations.ReadsReturnTheRegisterAndChangeNothing
  intro s rest a hsizes hdrain haligned hagenda
  refine ⟨busRead s a, step_read hdrain hagenda haligned, fun r hmapped ha => busRead_of_mapped hsizes hmapped ha,
    busRead_of_unmapped, ?_⟩
  rintro rfl
  exact busRead_of_mapped (r := .now) hsizes trivial rfl

/-- Settles O11: the address of a register leads to that register, and its write to nothing else. -/
theorem writesReachOneRegister : Obligations.WritesReachOneRegister := by
  unfold Obligations.WritesReachOneRegister
  intro s rest r v hsizes hdrain hmapped hcmd hagenda
  obtain ⟨hlt, haligned⟩ := addressOf_bounds (regExists_of_mapped hsizes hmapped)
  have haddr : (BitVec.ofNat 16 (addressOf r)).toNat = addressOf r := Nat.mod_eq_of_lt hlt
  have hne : BitVec.ofNat 16 (addressOf r) ≠ cmdAddr := by
    intro h
    rw [h] at haddr
    exact hcmd (Option.some.inj (regAt_of_mapped hsizes hmapped haddr.symm)).symm
  have hstep := step_write hdrain hagenda (by rwa [haddr]) hne
  rw [busWrite_of_mapped hsizes hmapped haddr.symm] at hstep
  obtain ⟨henv, hdrain'⟩ := writeReg_keeps s r v
  refine ⟨_, hstep, rfl, rfl, henv, hdrain'.trans hdrain, fun hwritable => ?_, ?_⟩
  · refine writes_agenda_resp ?_ rest .done
    rcases hwritable with hoperand | ⟨hconfig, hlocked⟩
    · exact writes_operand hoperand s v
    · exact writes_config hmapped hconfig hlocked v
  · rintro rfl
    exact writes_agenda_resp (writes_status s v) rest .done

/-- Settles O12: what is unmapped, read-only or locked answers without a change, whatever is written. -/
theorem unmappedReservedAndReadOnlyAreIgnored : Obligations.UnmappedReservedAndReadOnlyAreIgnored := by
  unfold Obligations.UnmappedReservedAndReadOnlyAreIgnored
  intro s rest a hsizes hwords hdrain haligned hcmd
  refine ⟨fun hunmapped => ⟨fun hagenda => ?_, fun v hagenda => ?_⟩,
    fun r v hmapped ha hoperand hstatus hconfig hagenda => ?_, fun r _ => readReg_reserved hwords r,
    writeReg_and_fieldBits s⟩
  · rw [step_read hdrain hagenda haligned, busRead_of_unmapped hunmapped]
  · rw [step_write hdrain hagenda haligned hcmd, busWrite_of_unmapped hunmapped]
  · rw [step_write hdrain hagenda haligned hcmd, busWrite_of_mapped hsizes hmapped ha,
      writeReg_of_readOnly hoperand hstatus hconfig]

end Sys2Proof.Machine
end

section
/-! PROOFS. The command word (rules R74, R106-R113): encoder and decoder are inverse to each other, and the words that
decode are those that a row of match and mask selects. Both are shown field by field. -/

namespace Sys2Proof

open Sys2Proof.Spec

/-! ### From a command to its word and back -/

theorem decode_cmdWord {f : CmdFields} (h : f.rsv = 0) : decode (cmdWord f) = decodeFields f := by
  simp [decode, h]

theorem encodeFields_rsv (i : Instr) : (encodeFields i).rsv = 0 := by
  cases i <;> rfl

theorem decodeFields_encodeFields {i : Instr} (h : i.WellFormed) : decodeFields (encodeFields i) = .ok i := by
  cases i with
  | nop => exact Laws.Encoding.nop h
  | lock => exact Laws.Encoding.lock h
  | dec t => exact Laws.Encoding.dec t h
  | enc t ssm sdi => exact Laws.Encoding.enc t ssm sdi h
  | chkv t => exact Laws.Encoding.chkv t h
  | rxw g => exact Laws.Encoding.rxw g h
  | drain g => exact Laws.Encoding.drain g h
  | tick g => exact Laws.Encoding.tick g h
  | getd g label => exact Laws.Encoding.getd g label h
  | getw g octal => exact Laws.Encoding.getw g octal h
  | lprst e => exact Laws.Encoding.lprst e h
  | lppre e => exact Laws.Encoding.lppre e h
  | lpstep e => exact Laws.Encoding.lpstep e h
  | lpspool e t valid => exact Laws.Encoding.lpspool e t valid h
  | dfrst e => exact Laws.Encoding.dfrst e h
  | dfpre e => exact Laws.Encoding.dfpre e h
  | dfstep e => exact Laws.Encoding.dfstep e h
  | dfspool e t valid => exact Laws.Encoding.dfspool e t valid h

theorem decode_encode {i : Instr} (h : i.WellFormed) : decode (encode i) = .ok i :=
  (decode_cmdWord (encodeFields_rsv i)).trans (decodeFields_encodeFields h)

theorem decodeBytes_bytesOfWord_append {w : Word} {i : Instr} (h : decode w = .ok i) (rest : List Byte) :
    decodeBytes (bytesOfWord w ++ rest) = .ok (i, rest) := by
  simp [decodeBytes, bytesOfWord, wordOfBytes_bytesOfWord, h]

/-! ### From a word to its command and back -/

theorem decode_eq_ok {c : Word} {i : Instr} :
    decode c = .ok i ↔ (cmdFields c).rsv = 0 ∧ decodeFields (cmdFields c) = .ok i := by
  simp only [decode]
  split <;> simp only [*, reduceCtorEq, true_and, false_and]

theorem requireZero_eq_ok {zero : Bool} {i j : Instr} : requireZero zero i = .ok j ↔ zero = true ∧ i = j := by
  cases zero <;> simp [requireZero]

theorem ofBool_beq_one (v : BitVec 1) : BitVec.ofBool (v == 1#1) = v := by
  decide +revert

/-- Each field of a legal word is an operand of its command, or is 0 on both sides (rules R106, R110). -/
theorem encodeFields_of_decodeFields {f : CmdFields} {i : Instr} (hrsv : f.rsv = 0) (h : decodeFields f = .ok i) :
    i.WellFormed ∧ encodeFields i = f := by
  obtain ⟨opc, idx, sel, ssm, sdi, v, rsv⟩ := f
  unfold decodeFields at h
  simp only at h hrsv
  split at h
  case h_19 => cases h
  all_goals
    obtain ⟨hzero, rfl⟩ := requireZero_eq_ok.mp h
    simp only [Bool.and_eq_true, beq_iff_eq] at hzero
    simp [Instr.WellFormed, Instr.wf, idxFits, selFits, idx.isLt, sel.isLt, encodeFields, plainFields, Instr.opc,
      ofBool_beq_one, hrsv, hzero]

theorem wellFormed_and_encode_of_decode {c : Word} {i : Instr} (h : decode c = .ok i) :
    i.WellFormed ∧ encode i = c := by
  obtain ⟨hrsv, hfields⟩ := decode_eq_ok.mp h
  obtain ⟨hwf, hencode⟩ := encodeFields_of_decodeFields hrsv hfields
  exact ⟨hwf, by rw [encode, hencode, cmdWord_cmdFields]⟩

/-! ### Operands as numbers (rule R107) -/

theorem idxOf_eq (c : Word) : idxOf c = (cmdFields c).idx.toNat := by
  simp [idxOf, cmdFields, Nat.shiftRight_eq_div_pow]

theorem selOf_eq (c : Word) : selOf c = (cmdFields c).sel.toNat := by
  simp [selOf, cmdFields, Nat.shiftRight_eq_div_pow]

theorem ssmOf_eq (c : Word) : ssmOf c = (cmdFields c).ssm.toNat := by
  simp [ssmOf, cmdFields, Nat.shiftRight_eq_div_pow]

theorem sdiOf_eq (c : Word) : sdiOf c = (cmdFields c).sdi.toNat := by
  simp [sdiOf, cmdFields, Nat.shiftRight_eq_div_pow]

theorem vOf_eq (c : Word) : vOf c = (cmdFields c).v.toNat := by
  simp [vOf, cmdFields, Nat.shiftRight_eq_div_pow]

theorem operandsOf_encode {i : Instr} (h : i.WellFormed) : OperandsOf (encode i) i := by
  cases i <;>
  · simp only [Instr.WellFormed, Instr.wf, idxFits, selFits, Bool.and_eq_true, decide_eq_true_eq] at h
    simp [OperandsOf, idxOf_eq, selOf_eq, ssmOf_eq, sdiOf_eq, vOf_eq, encode, encodeFields, plainFields,
      Nat.mod_eq_of_lt, h]

/-! ### Rows of match and mask (rule R109) -/

/-- The fields of `a` under those of a mask. -/
def CmdFields.and (a mask : CmdFields) : CmdFields :=
  ⟨a.opc &&& mask.opc, a.idx &&& mask.idx, a.sel &&& mask.sel, a.ssm &&& mask.ssm, a.sdi &&& mask.sdi,
    a.v &&& mask.v, a.rsv &&& mask.rsv⟩

theorem selects_cmdWord (r : Row) (f : CmdFields) :
    r.Selects (cmdWord f) ↔ f.and (cmdFields r.mask) = cmdFields r.value := by
  rw [CmdFields.and, ← cmdWord_inj, ← cmdWord_and, cmdWord_cmdFields, cmdWord_cmdFields, Row.Selects]

theorem and_eq_self {n : ℕ} (x : BitVec n) {m : BitVec n} (hm : m = BitVec.allOnes n) : x &&& m = x :=
  hm ▸ BitVec.and_allOnes

theorem exists_row_selects_encode (i : Instr) : ∃ r ∈ rows, r.Selects (encode i) ∧ r.name = mnemonic i := by
  cases i <;>
    simp [rows, mnemonic, selects_cmdWord, CmdFields.and, encode, encodeFields, plainFields, Instr.opc, cmdFields]

theorem decode_of_selects {r : Row} {c : Word} (hr : r ∈ rows) (h : r.Selects c) :
    ∃ i, decode c = .ok i ∧ mnemonic i = r.name := by
  obtain ⟨f, rfl⟩ : ∃ f, cmdWord f = c := ⟨_, cmdWord_cmdFields c⟩
  rw [selects_cmdWord] at h
  simp only [rows, List.mem_cons, List.not_mem_nil, or_false] at hr
  rcases hr with rfl | rfl | rfl | rfl | rfl | rfl | rfl | rfl | rfl | rfl | rfl | rfl | rfl | rfl | rfl | rfl | rfl |
    rfl
  all_goals
    simp (disch := decide) only [CmdFields.and, cmdFields, and_eq_self, BitVec.reduceExtractLsb', BitVec.ofNat_eq_ofNat,
      BitVec.and_zero, CmdFields.mk.injEq] at h
    simp [decode_cmdWord, decodeFields, requireZero, mnemonic, h]

/-! ### The statements -/

/-- Settles O1: the word by its fields, which decode command by command, and the bytes by the word they make. -/
theorem encodedCommandsDecodeToThemselves : Obligations.EncodedCommandsDecodeToThemselves := by
  unfold Obligations.EncodedCommandsDecodeToThemselves
  intro i hwf
  exact ⟨decode_encode hwf, decodeBytes_bytesOfWord_append (decode_encode hwf)⟩

/-- Settles O2: a row puts every field of the word into the command, or requires it to be 0. -/
theorem decodedWordsAreCanonical : Obligations.DecodedWordsAreCanonical := by
  unfold Obligations.DecodedWordsAreCanonical
  intro c i hdecode
  exact wellFormed_and_encode_of_decode hdecode

/-- Settles O3: a word that decodes is an encoded command, which its row selects; a row that selects a word fixes every
field that the decoder tests. -/
theorem legalWordsAreThoseOfTheTable : Obligations.LegalWordsAreThoseOfTheTable := by
  unfold Obligations.LegalWordsAreThoseOfTheTable
  intro c
  refine ⟨fun i hdecode => ?_, fun r hr hselects => decode_of_selects hr hselects⟩
  obtain ⟨hwf, rfl⟩ := wellFormed_and_encode_of_decode hdecode
  exact ⟨operandsOf_encode hwf, exists_row_selects_encode i⟩

/-- Settles O4, by running the decoder on the eight words. -/
theorem exampleWordsDecode : Obligations.ExampleWordsDecode := by
  unfold Obligations.ExampleWordsDecode
  decide

end Sys2Proof
end


section
/-! PROOFS. `check_entry` (rule R132): its checks in the order of the table, type by type. -/

namespace Sys2Proof.Spec

open Sys2Proof.Machine Sys2Proof.Safety

theorem resOk_iff (c : LabelConfig) : resOk c = true ↔ Flt.isFinite c.res = true ∧ Flt.lt 0 c.res = true :=
  Bool.and_eq_true_iff

/-- `check_entry` finds the entry legal, or answers the reason of the first check that fails (rule R132). -/
theorem checkEntry_spec (c : LabelConfig) :
    (checkEntry c = 0 ∧ LegalEntry c) ∨ FailsWith c (checkEntry c) := by
  have hinterval : c.maxTx < c.minTx ↔ c.maxTx.toNat < c.minTx.toNat := BitVec.lt_def
  cases ht : c.msgType with
  | reserved => simp [checkEntry, FailsWith, ht]
  | bnr | bcd | discrete =>
    simp only [checkEntry, FailsWith, ht, LegalEntry, ← resOk_iff, hinterval]
    split_ifs <;> simp_all <;> omega

variable {c : LabelConfig} {r r' : ℕ}

theorem FailsWith.bounds (h : FailsWith c r) : 1 ≤ r ∧ r ≤ 6 := by
  simp only [FailsWith] at h
  omega

/-- Each check is made only where the ones before it pass, so at most one of them is the first to fail. -/
theorem FailsWith.unique (h : FailsWith c r) (h' : FailsWith c r') : r = r' := by
  unfold FailsWith at h h'
  extract_lets at h h'
  clear_value *
  grind

theorem FailsWith.not_legalEntry (h : FailsWith c r) : ¬ LegalEntry c := by
  cases ht : c.msgType with
  | reserved => simp [LegalEntry, ht]
  | bnr | bcd | discrete =>
    simp only [LegalEntry, ht, FailsWith] at h ⊢
    grind

theorem checkEntry_eq_zero_iff : checkEntry c = 0 ↔ LegalEntry c := by
  rcases checkEntry_spec c with ⟨hzero, hlegal⟩ | hfails
  · exact iff_of_true hzero hlegal
  · exact iff_of_false (Nat.ne_of_gt hfails.bounds.1) hfails.not_legalEntry

theorem checkEntry_eq_iff (hr : r ≠ 0) : checkEntry c = r ↔ FailsWith c r := by
  rcases checkEntry_spec c with ⟨hzero, hlegal⟩ | hfails
  · exact iff_of_false (fun h => hr (h.symm.trans hzero)) fun h => h.not_legalEntry hlegal
  · exact ⟨fun h => h ▸ hfails, hfails.unique⟩

/-- Settles O21: what `check_entry` answers, and that at most one check is the first to fail. -/
theorem checkEntryNamesTheFirstFailure : Obligations.CheckEntryNamesTheFirstFailure := by
  unfold Obligations.CheckEntryNamesTheFirstFailure
  exact fun c => ⟨checkEntry_eq_zero_iff, fun r hr => checkEntry_eq_iff hr⟩

end Sys2Proof.Spec
end

section
/-! PROOFS. LOCK (rule R131): its searches find the first failure, and there is none exactly in a valid
configuration. -/

namespace Sys2Proof.Spec

open Sys2Proof.Machine Sys2Proof.Safety

/-! ### The searches -/

theorem exists_failsWith_iff {c : LabelConfig} {p : ℕ → Prop} :
    (∃ r, FailsWith c r ∧ p r) ↔ checkEntry c ≠ 0 ∧ p (checkEntry c) := by
  constructor
  · rintro ⟨r, hfails, hp⟩
    have hr : r ≠ 0 := Nat.ne_of_gt hfails.bounds.1
    rw [(checkEntry_eq_iff hr).mpr hfails]
    exact ⟨hr, hp⟩
  · rintro ⟨hne, hp⟩
    exact ⟨checkEntry c, (checkEntry_eq_iff hne).mp rfl, hp⟩

/-- The first failure of the codec table: its reason and index (rule R131). -/
def TableFails (s : State) (r idx : ℕ) : Prop :=
  ∃ t : Fin Config.tableSize, idx = t.val ∧ s.ct[t].en = true ∧ FailsWith s.ct[t] r ∧
    ∀ u : Fin Config.tableSize, u < t → s.ct[u].en = true → LegalEntry s.ct[u]

/-- The first failure of group G: its reason, table and index (rule R131). -/
def GroupFails (G : Group) (r table idx : ℕ) : Prop :=
  (table = 2 ∧ r = 8 ∧ idx = 0 ∧ G.num.toNat > 64) ∨
  (table = 1 ∧ G.num.toNat ≤ 64 ∧ ∃ j : Fin Config.tableSize, idx = j.val ∧ EntryFails G j r ∧
    ∀ j' r', j' < j → ¬ EntryFails G j' r')

theorem firstFailure_iff {s : State} {r table g idx : ℕ} :
    FirstFailure s r table g idx ↔
      (table = 0 ∧ g = 0 ∧ TableFails s r idx) ∨
      ((∀ t : Fin Config.tableSize, s.ct[t].en = true → LegalEntry s.ct[t]) ∧
        ∃ G, s.groups[g]? = some G ∧ (∀ g' G', g' < g → s.groups[g']? = some G' → LegalGroup G') ∧
          GroupFails G r table idx) :=
  Iff.rfl

theorem tableFailure_eq_none_iff {s : State} {t : Fin Config.tableSize} :
    tableFailure s t = none ↔ (s.ct[t].en = true → LegalEntry s.ct[t]) := by
  rw [← checkEntry_eq_zero_iff, tableFailure]
  generalize s.ct[t] = c
  cases c.en <;> simp

theorem tableFailure_eq_some_iff {s : State} {t : Fin Config.tableSize} {e : Word} :
    tableFailure s t = some e ↔
      s.ct[t].en = true ∧ ∃ r, FailsWith s.ct[t] r ∧ errinfoWord r 0 0 t = e := by
  rw [exists_failsWith_iff, tableFailure]
  generalize s.ct[t] = c
  cases c.en <;> simp

theorem tableSearch_eq_none_iff {s : State} :
    (List.finRange Config.tableSize).findSome? (tableFailure s) = none ↔
      ∀ t : Fin Config.tableSize, s.ct[t].en = true → LegalEntry s.ct[t] := by
  simp [List.findSome?_eq_none_iff, tableFailure_eq_none_iff]

theorem tableSearch_eq_some_iff {s : State} {e : Word} :
    (List.finRange Config.tableSize).findSome? (tableFailure s) = some e ↔
      ∃ r idx, TableFails s r idx ∧ errinfoWord r 0 0 idx = e := by
  simp only [findSome_finRange, tableFailure_eq_some_iff, tableFailure_eq_none_iff]
  constructor
  · rintro ⟨t, ⟨hen, r, hfails, rfl⟩, hbefore⟩
    exact ⟨r, t, ⟨t, rfl, hen, hfails, hbefore⟩, rfl⟩
  · rintro ⟨r, idx, ⟨t, rfl, hen, hfails, hbefore⟩, rfl⟩
    exact ⟨t, ⟨hen, r, hfails, rfl⟩, hbefore⟩

theorem duplicateLabel_iff {G : Group} {j : Fin Config.tableSize} :
    duplicateLabel G j = true ↔ ∃ i : Fin Config.tableSize, i < j ∧ G.entries[i].label = G.entries[j].label := by
  simp [duplicateLabel]

/-- An active entry fails if it is not legal, or has the label of an entry before it. -/
theorem exists_entryFails_iff {G : Group} {j : Fin Config.tableSize} {p : ℕ → Prop} :
    (∃ r, EntryFails G j r ∧ p r) ↔
      j.val < G.num.toNat ∧
        (checkEntry G.entries[j] ≠ 0 ∧ p (checkEntry G.entries[j]) ∨
          checkEntry G.entries[j] = 0 ∧ duplicateLabel G j = true ∧ p 7) := by
  rw [duplicateLabel_iff, checkEntry_eq_zero_iff, ← exists_failsWith_iff]
  constructor
  · rintro ⟨r, ⟨hactive, hfails | ⟨rfl, hlegal, hduplicate⟩⟩, hp⟩
    · exact ⟨hactive, .inl ⟨r, hfails, hp⟩⟩
    · exact ⟨hactive, .inr ⟨hlegal, hduplicate, hp⟩⟩
  · rintro ⟨hactive, ⟨r, hfails, hp⟩ | ⟨hlegal, hduplicate, hp⟩⟩
    · exact ⟨r, ⟨hactive, .inl hfails⟩, hp⟩
    · exact ⟨7, ⟨hactive, .inr ⟨rfl, hlegal, hduplicate⟩⟩, hp⟩

theorem entryFailure_eq_some_iff {g : ℕ} {G : Group} {j : Fin Config.tableSize} {e : Word} :
    entryFailure g G j = some e ↔ ∃ r, EntryFails G j r ∧ errinfoWord r 1 g j = e := by
  rw [exists_entryFails_iff, entryFailure]
  split_ifs <;> simp_all

theorem entryFailure_eq_none_iff {g : ℕ} {G : Group} {j : Fin Config.tableSize} :
    entryFailure g G j = none ↔ ∀ r, ¬ EntryFails G j r := by
  simp only [Option.eq_none_iff_forall_ne_some, ne_eq, entryFailure_eq_some_iff]
  exact ⟨fun h r hr => h _ ⟨r, hr, rfl⟩, fun h e ⟨r, hr, _⟩ => h r hr⟩

theorem groupFailure_eq_some_iff {g : ℕ} {G : Group} {e : Word} :
    groupFailure g G = some e ↔ ∃ r table idx, GroupFails G r table idx ∧ errinfoWord r table g idx = e := by
  unfold groupFailure
  split
  · next hlarge =>
    rw [Option.some_inj]
    constructor
    · rintro rfl
      exact ⟨8, 2, 0, .inl ⟨rfl, rfl, rfl, hlarge⟩, rfl⟩
    · rintro ⟨r, table, idx, ⟨rfl, rfl, rfl, -⟩ | ⟨-, hsize, -⟩, h⟩
      · exact h
      · omega
  · next hsize =>
    simp only [findSome_finRange, entryFailure_eq_some_iff, entryFailure_eq_none_iff]
    constructor
    · rintro ⟨j, ⟨r, hfails, rfl⟩, hbefore⟩
      exact ⟨r, 1, j, .inr ⟨rfl, Nat.le_of_not_lt hsize, j, rfl, hfails, fun j' r' hj' => hbefore j' hj' r'⟩, rfl⟩
    · rintro ⟨r, table, idx, ⟨-, -, -, hlarge⟩ | ⟨rfl, -, j, rfl, hfails, hbefore⟩, rfl⟩
      · exact absurd hlarge hsize
      · exact ⟨j, ⟨r, hfails, rfl⟩, fun j' hj' r' => hbefore j' r' hj'⟩

theorem forall_not_entryFails_iff {G : Group} {j : Fin Config.tableSize} :
    (∀ r, ¬ EntryFails G j r) ↔
      (j.val < G.num.toNat → LegalEntry G.entries[j] ∧
        ∀ i : Fin Config.tableSize, i < j → G.entries[i].label ≠ G.entries[j].label) := by
  have h := exists_entryFails_iff (G := G) (j := j) (p := fun _ => True)
  rw [duplicateLabel_iff] at h
  simp only [and_true] at h
  rw [← not_exists, h, ← checkEntry_eq_zero_iff]
  grind

theorem groupFailure_eq_none_iff {g : ℕ} {G : Group} : groupFailure g G = none ↔ LegalGroup G := by
  unfold groupFailure
  split
  · next hlarge => exact iff_of_false (by simp) fun ⟨hsize, _⟩ => absurd hlarge (Nat.not_lt.mpr hsize)
  · next hsize =>
    simp only [List.findSome?_eq_none_iff, List.mem_finRange, true_imp_iff, entryFailure_eq_none_iff,
      forall_not_entryFails_iff]
    constructor
    · exact fun h => ⟨Nat.le_of_not_lt hsize, fun j hj => (h j hj).1, fun i j hij hj => (h j hj).2 i hij⟩
    · exact fun ⟨_, hlegal, hunique⟩ j hj => ⟨hlegal j hj, fun i hij => hunique i j hij hj⟩

theorem groupSearch_eq_none_iff {s : State} :
    (s.groups.zipIdx.findSome? fun p => groupFailure p.2 p.1) = none ↔ ∀ G ∈ s.groups, LegalGroup G := by
  simp only [List.findSome?_eq_none_iff, groupFailure_eq_none_iff]
  constructor
  · intro h G hG
    obtain ⟨g, hg, rfl⟩ := List.getElem_of_mem hG
    exact h (s.groups[g], g) (List.mem_zipIdx_iff_getElem?.mpr (List.getElem?_eq_getElem hg))
  · exact fun h p hp => h p.1 (List.fst_mem_of_mem_zipIdx hp)

theorem lockFailure_eq_none_iff {s : State} : lockFailure s = none ↔ Validated s := by
  rw [lockFailure, Option.or_eq_none_iff, tableSearch_eq_none_iff, groupSearch_eq_none_iff]

theorem lockFailure_eq_some_iff {s : State} {e : Word} :
    lockFailure s = some e ↔ ∃ r table g idx, FirstFailure s r table g idx ∧ errinfoWord r table g idx = e := by
  rw [lockFailure, Option.or_eq_some_iff, tableSearch_eq_some_iff, tableSearch_eq_none_iff, findSome_zipIdx]
  simp only [groupFailure_eq_some_iff, groupFailure_eq_none_iff, firstFailure_iff]
  constructor
  · rintro (⟨r, idx, hfails, rfl⟩ | ⟨htable, g, G, hG, ⟨r, table, idx, hfails, rfl⟩, hbefore⟩)
    · exact ⟨r, 0, 0, idx, .inl ⟨rfl, rfl, hfails⟩, rfl⟩
    · exact ⟨r, table, g, idx, .inr ⟨htable, G, hG, hbefore, hfails⟩, rfl⟩
  · rintro ⟨r, table, g, idx, ⟨rfl, rfl, hfails⟩ | ⟨htable, G, hG, hbefore, hfails⟩, rfl⟩
    · exact .inl ⟨r, idx, hfails, rfl⟩
    · exact .inr ⟨htable, g, G, hG, ⟨r, table, idx, hfails, rfl⟩, hbefore⟩

theorem not_validated_iff {s : State} : ¬ Validated s ↔ ∃ r table g idx, FirstFailure s r table g idx := by
  rw [← lockFailure_eq_none_iff, ← ne_eq, Option.ne_none_iff_exists']
  simp only [lockFailure_eq_some_iff]
  constructor
  · exact fun ⟨_, r, table, g, idx, hfirst, _⟩ => ⟨r, table, g, idx, hfirst⟩
  · exact fun ⟨r, table, g, idx, hfirst⟩ => ⟨_, r, table, g, idx, hfirst, rfl⟩

end Sys2Proof.Spec
end

section
/-! PROOFS. What NOP and LOCK write (rules R130, R131). -/

namespace Sys2Proof.Spec

open Sys2Proof.Machine Sys2Proof.Safety

/-! ### Writes to the result and status registers -/

theorem writes_refl (s : State) : Writes s s [] := ⟨by simp, fun _ _ => rfl⟩

/-- Ending a command adds RESULT to the registers written (rules R34, R270). -/
theorem Writes.finish {s t : State} {ws : List (Reg × Word)} (h : Writes s t ws) (hws : .result ∉ ws.map Prod.fst)
    (code : ResultCode) (opc : BitVec 8) :
    Writes s (t.finish code opc) (ws ++ [(.result, resultWord code opc)]) := by
  obtain ⟨hwritten, hkept⟩ := h
  refine ⟨fun p hp => ?_, fun r hr => ?_⟩
  · rw [readReg_finish]
    rcases List.mem_append.mp hp with hp | hp
    · rw [if_neg (ne_of_mem_of_not_mem (List.mem_map_of_mem hp) hws), hwritten p hp]
    · rw [List.mem_singleton.mp hp, if_pos rfl]
  · simp only [List.map_append, List.map_cons, List.map_nil, List.mem_append, List.mem_singleton, not_or] at hr
    rw [readReg_finish, if_neg hr.2, hkept r hr.1]

/-- LOCKED and CFGERR are in STATUS only (rule R35). -/
theorem writes_lockState (s : State) (locked cfgErr : Bool) :
    Writes s { s with locked := locked, cfgErr := cfgErr }
      [(.status, BitVec.ofNat 32 (num locked + 2 * num cfgErr + 4 * num s.cmdErr))] := by
  refine writes_singleton ?_ fun r hne => ?_
  · simp only [num_eq_toNat]
    exact statusWord_eq _
  · cases r with
    | status => exact absurd rfl hne
    | _ => rfl

/-- In CONFIG mode a failure of LOCK is in STATUS and ERRINFO only (rules R35, R36). -/
theorem writes_configError {s : State} (hlocked : s.locked = false) (e : Word) :
    Writes s { s with cfgErr := true, errinfo := e }
      [(.status, BitVec.ofNat 32 (2 + 4 * num s.cmdErr)), (.errinfo, e)] := by
  refine ⟨fun p hp => ?_, fun r hr => ?_⟩
  · rcases List.mem_cons.mp hp with rfl | hp
    · simp [readReg, statusWord_eq, num_eq_toNat, hlocked]
    · rw [List.mem_singleton.mp hp]
      rfl
  · cases r with
    | status | errinfo => exact absurd hr (by simp)
    | _ => rfl

/-! ### ERRINFO as a sum -/

theorem errinfoWord_eq {r table g idx : ℕ} (hr : r < 16) (htable : table < 16) (hg : g < 16) (hidx : idx < 2 ^ 20) :
    errinfoWord r table g idx = BitVec.ofNat 32 (r + 16 * table + 256 * g + 4096 * idx) := by
  have hnum {n : ℕ} (hn : n < 2 ^ 20) : (BitVec.ofNat 32 n).toNat = n := Nat.mod_eq_of_lt (by omega)
  have er := hnum (n := r) (by omega)
  have etable := hnum (n := table) (by omega)
  have eg := hnum (n := g) (by omega)
  have eidx := hnum hidx
  have h1 := toNat_or_shiftLeft (BitVec.ofNat 32 r) (BitVec.ofNat 32 table) 4 (by omega) (by omega)
  have h2 := toNat_or_shiftLeft _ (BitVec.ofNat 32 g) 8 (by rw [h1]; omega) (by omega)
  have h3 := toNat_or_shiftLeft _ (BitVec.ofNat 32 idx) 12 (by rw [h2, h1]; omega) (by omega)
  apply BitVec.eq_of_toNat_eq
  rw [errinfoWord, h3, h2, h1, er, etable, eg, eidx, BitVec.toNat_ofNat]
  omega

theorem FirstFailure.bounds {s : State} (hsizes : SizesOk s) {r table g idx : ℕ}
    (h : FirstFailure s r table g idx) : r ≤ 8 ∧ table ≤ 2 ∧ g < 4 ∧ idx < 64 := by
  rcases firstFailure_iff.mp h with ⟨rfl, rfl, t, rfl, -, hfails, -⟩ | ⟨-, G, hG, -, hfails⟩
  · exact ⟨by have := hfails.bounds; omega, by decide, by decide, t.isLt⟩
  · obtain ⟨-, hgroups, -⟩ := hsizes
    obtain ⟨hlt, -⟩ := List.getElem?_eq_some_iff.mp hG
    have hg : g < 4 := Nat.lt_of_lt_of_le hlt hgroups
    rcases hfails with ⟨rfl, rfl, rfl, -⟩ | ⟨rfl, -, j, rfl, ⟨-, hfails | ⟨rfl, -⟩⟩, -⟩
    · exact ⟨by decide, by decide, hg, by decide⟩
    · exact ⟨by have := hfails.bounds; omega, by decide, hg, j.isLt⟩
    · exact ⟨by decide, by decide, hg, j.isLt⟩

/-! ### The commands -/

theorem exec_nop (s : State) : exec .nop s = .next (s.finish .success Instr.nop.opc) := rfl

theorem exec_lock_of_locked {s : State} (h : s.locked = true) :
    exec .lock s = .next (s.finish .success Instr.lock.opc) := by
  simp [exec, execLock, h]

theorem exec_lock_of_validated {s : State} (hlocked : s.locked = false) (h : Validated s) :
    exec .lock s = .next ({ s with locked := true, cfgErr := false }.finish .success Instr.lock.opc) := by
  simp [exec, execLock, hlocked, lockFailure_eq_none_iff.mpr h]

theorem exec_lock_of_firstFailure {s : State} (hlocked : s.locked = false) {r table g idx : ℕ}
    (h : FirstFailure s r table g idx) :
    exec .lock s =
      .next ({ s with cfgErr := true, errinfo := errinfoWord r table g idx }.finish .invalidArgument
        Instr.lock.opc) := by
  simp [exec, execLock, hlocked, lockFailure_eq_some_iff.mpr ⟨r, table, g, idx, h, rfl⟩]

/-- Settles O22: the searches of LOCK, and what it writes for each of their answers. -/
theorem lockValidatesAndFreezes : Obligations.LockValidatesAndFreezes := by
  unfold Obligations.LockValidatesAndFreezes
  refine fun s hsizes => ⟨fun hlocked => ?_, fun hlocked hvalid => ?_, not_validated_iff,
    fun r table g idx hlocked hfirst => ?_⟩
  · exact ⟨_, exec_lock_of_locked hlocked, (writes_refl s).finish (by simp) .success _,
      rfl, rfl, rfl, rfl, rfl, rfl, rfl⟩
  · exact ⟨_, exec_lock_of_validated hlocked hvalid, (writes_lockState s true false).finish (by simp) .success _,
      rfl, rfl, rfl, rfl, rfl, rfl, rfl⟩
  · obtain ⟨hr, htable, hg, hidx⟩ := hfirst.bounds hsizes
    refine ⟨_, exec_lock_of_firstFailure hlocked hfirst, ?_, rfl, rfl, rfl, rfl, rfl, rfl, rfl⟩
    rw [errinfoWord_eq (by omega) (by omega) (by omega) (by omega)]
    exact (writes_configError hlocked _).finish (by simp) .invalidArgument _

theorem opc_eq_zero_iff {i : Instr} : i.opc = 0 ↔ i = .nop := by cases i <;> simp [Instr.opc]

theorem encodeFields_opc (i : Instr) : (encodeFields i).opc = i.opc := by cases i <;> rfl

/-- The low byte of a command word is the opcode (rule R106). -/
theorem encode_toNat_mod (i : Instr) : (encode i).toNat % 256 = i.opc.toNat := by
  have hopc : (cmdFields (encode i)).opc = i.opc := by rw [encode, cmdFields_cmdWord, encodeFields_opc]
  rw [← hopc, cmdFields, BitVec.extractLsb'_toNat, Nat.shiftRight_zero]

/-- Settles O20: NOP only ends, and the one word of its opcode that decodes is the word of NOP, which is 0. -/
theorem nopWritesOnlyResult : Obligations.NopWritesOnlyResult := by
  unfold Obligations.NopWritesOnlyResult
  refine ⟨fun s => ⟨_, exec_nop s, (writes_refl s).finish (by simp) .success _, rfl, rfl, rfl, rfl, rfl, rfl, rfl⟩,
    fun c hopcode hc => ?_⟩
  have hillegal (i : Instr) : decode c ≠ .ok i := by
    intro hdecode
    obtain ⟨-, rfl⟩ := wellFormed_and_encode_of_decode hdecode
    rw [encode_toNat_mod] at hopcode
    rw [opc_eq_zero_iff.mp (BitVec.eq_of_toNat_eq hopcode)] at hc
    exact hc (by decide)
  refine ⟨fun row hrow hselects => ?_, hillegal⟩
  obtain ⟨i, hdecode, -⟩ := decode_of_selects hrow hselects
  exact hillegal i hdecode

end Sys2Proof.Spec
end

section
/-! PROOFS. Every command keeps the invariant (rules R8, R133, R205, R251, R270, R272): one rule for each update of the
state, then the commands, each made of them. -/

namespace Sys2Proof.Safety

open Sys2Proof.Machine Sys2Proof.Spec

variable {s t : State}

/-! ### The configuration -/

theorem validated_of_configOf_eq (h : configOf t = configOf s) (hs : Validated s) : Validated t := by
  simp only [configOf_eq, Configuration.mk.injEq] at h
  obtain ⟨hct, hgroups, -, -⟩ := h
  obtain ⟨htable, hlegal⟩ := hs
  refine ⟨hct ▸ htable, fun G hG => ?_⟩
  have hmem : G.config ∈ s.groups.map Group.config := hgroups ▸ List.mem_map_of_mem hG
  obtain ⟨G', hG', hconfig⟩ := List.mem_map.mp hmem
  simp only [Group.config, Prod.mk.injEq] at hconfig
  obtain ⟨hnum, -, hentries⟩ := hconfig
  have := hlegal G' hG'
  rwa [LegalGroup, hnum, hentries] at this

/-! ### Words -/

theorem ofNat_shiftLeft_and {n k lo : ℕ} {m : Word} (hn : n < 2 ^ k) (hm : mask k <<< lo &&& m = 0) :
    BitVec.ofNat 32 n <<< lo &&& m = 0 := by
  have hfield : (BitVec.ofNat k n).setWidth 32 = BitVec.ofNat 32 n := by
    apply BitVec.eq_of_toNat_eq
    rw [BitVec.toNat_setWidth, BitVec.toNat_ofNat, BitVec.toNat_ofNat, Nat.mod_eq_of_lt hn]
  rw [← hfield]
  exact setWidth_shiftLeft_and _ hm

theorem errinfoWord_reserved {r table g idx : ℕ} (hr : r < 2 ^ 4) (htable : table < 2 ^ 2) (hg : g < 2 ^ 4)
    (hidx : idx < 2 ^ 6) : errinfoWord r table g idx &&& 0xFFFC00C0 = 0 := by
  refine or_and_eq_zero (or_and_eq_zero (or_and_eq_zero ?_ ?_) ?_) ?_
  · simpa using ofNat_shiftLeft_and (lo := 0) hr (by decide : _ &&& (0xFFFC00C0 : Word) = 0)
  · exact ofNat_shiftLeft_and htable (by decide)
  · exact ofNat_shiftLeft_and hg (by decide)
  · exact ofNat_shiftLeft_and hidx (by decide)

theorem outfWord_lt (ssm sdi : BitVec 2) (fresh nb bool : Bool) : (outfWord ssm sdi fresh nb bool).toNat < 128 := by
  have hssm := ssm.isLt
  have hsdi := sdi.isLt
  have hfresh := fresh.toNat_le
  have hnb := nb.toNat_le
  have hbool := bool.toNat_le
  rw [outfWord_eq, BitVec.toNat_ofNat]
  omega

theorem resultWord_ok {code : ResultCode} (h : code ≠ .error) (opc : BitVec 8) :
    (resultWord code opc).toNat / 65536 = 0 ∧ (resultWord code opc).toNat % 256 ≤ 8 ∧
      (resultWord code opc).toNat % 256 ≠ 6 := by
  have hopc := opc.isLt
  have hcode : code.code.toNat ≤ 8 ∧ code.code.toNat ≠ 6 := by
    cases code with
    | error => exact absurd rfl h
    | _ => decide
  rw [resultWord_eq, BitVec.toNat_ofNat]
  omega

/-! ### Spool states -/

/-- A spool cycle keeps the count below 11 until it makes the engine good at 11 (rules R250, R251). -/
theorem SpoolOk.spoolCycle {α : Type} {restart : Flt → α} {next : Flt → Flt × α} {engine : α} {sp : Spool}
    (h : SpoolOk sp) (c : LabelConfig) (valid : Bool) (x : Flt) :
    SpoolOk (spoolCycle restart next engine sp c valid x).spool := by
  obtain ⟨hgood, hcount⟩ := h
  rw [spoolCycle_spool]
  split_ifs with hvalid hsp hzero
  · exact ⟨by simp, by simp⟩
  · exact ⟨hgood, hcount⟩
  · exact ⟨by simp, by simp⟩
  · have hle := hcount (by simpa using hsp)
    have hsucc : (sp.count + 1).toNat = sp.count.toNat + 1 := by
      rw [BitVec.toNat_add, show (1 : Word).toNat = 1 from rfl]
      omega
    have hten : Config.spoolThreshold < sp.count + 1 ↔ 10 < sp.count.toNat + 1 := by
      rw [BitVec.lt_def, hsucc]
      rfl
    refine ⟨fun hbecomes => BitVec.eq_of_toNat_eq ?_, fun hstays => ?_⟩
    · have := hten.mp (of_decide_eq_true hbecomes)
      rw [hsucc, show (11 : Word).toNat = 11 from rfl]
      omega
    · have := mt hten.mpr (of_decide_eq_false hstays)
      rw [hsucc]
      omega

/-! ### Updates of the state -/

/-- Operands, the environment's level and queues, the moves to come, the port's answer and the draws are no part of the
invariant; nor is CMDERR. -/
theorem Inv.withInputs (h : Inv s) {env : Env} (henv : env.ports.length = s.env.ports.length) (cmdErr : Bool)
    (opw opd : Word) (opa : Flt) (agenda : List Event) (resp : Response) (free : ℕ) :
    Inv { s with
      cmdErr := cmdErr, opw := opw, opd := opd, opa := opa, env := env, agenda := agenda, resp := resp,
      free := free } := by
  obtain ⟨hsizes, hrun, hlp, hdf, hwords, hdrain, hquiet⟩ := h
  exact ⟨by rwa [SizesOk, henv], hrun, hlp, hdf, hwords, hdrain, hquiet⟩

theorem Inv.withRest (h : Inv s) (agenda : List Event) (resp : Response) (free : ℕ) :
    Inv { s with agenda := agenda, resp := resp, free := free } :=
  h.withInputs rfl s.cmdErr s.opw s.opd s.opa agenda resp free

theorem Inv.withEnv (h : Inv s) {env : Env} (henv : env.ports.length = s.env.ports.length) :
    Inv { s with env := env } :=
  h.withInputs henv s.cmdErr s.opw s.opd s.opa s.agenda s.resp s.free

theorem Inv.withDrain (h : Inv s) {drain : Option DrainProgress} (hdrain : DrainOk { s with drain := drain }) :
    Inv { s with drain := drain } := by
  obtain ⟨hsizes, hrun, hlp, hdf, hwords, -, hquiet⟩ := h
  exact ⟨hsizes, hrun, hlp, hdf, hwords, hdrain, hquiet⟩

/-- No command ends with code 6 (rule R270). -/
theorem Inv.finish (h : Inv s) {code : ResultCode} (hcode : code ≠ .error) (opc : BitVec 8) :
    Inv (s.finish code opc) := by
  obtain ⟨hsizes, hrun, hlp, hdf, ⟨-, -, -, houtf, herrinfo⟩, hdrain, hquiet⟩ := h
  obtain ⟨hhigh, hle, hne⟩ := resultWord_ok hcode opc
  exact ⟨hsizes, hrun, hlp, hdf, ⟨hhigh, hle, hne, houtf, herrinfo⟩, hdrain, hquiet⟩

theorem Inv.outf_lt (h : Inv s) : s.outf.toNat < 128 := by
  obtain ⟨-, -, -, houtf, -⟩ := h.words
  exact houtf

/-- The outputs are free in RUN mode but for the reserved bits of OUTF (rule R33). -/
theorem Inv.withOutputs (h : Inv s) (hlocked : s.locked = true) {outf : Word} (houtf : outf.toNat < 128)
    (outw outd outi outt : Word) (outa : Flt) :
    Inv { s with outw := outw, outd := outd, outa := outa, outi := outi, outf := outf, outt := outt } := by
  obtain ⟨hsizes, hrun, hlp, hdf, ⟨hhigh, hle, hne, -, herrinfo⟩, hdrain, -⟩ := h
  exact ⟨hsizes, hrun, hlp, hdf, ⟨hhigh, hle, hne, houtf, herrinfo⟩, hdrain,
    fun hunlocked => by simp [hlocked] at hunlocked⟩

/-- In RUN mode a group may be replaced by one with its configuration (rule R282). -/
theorem Inv.setGroup (h : Inv s) (hlocked : s.locked = true) {g : ℕ} {G G' : Group} (hG : s.groups[g]? = some G)
    (hconfig : G'.config = G.config) : Inv (s.setGroup g G') := by
  obtain ⟨hsizes, hrun, hlp, hdf, hwords, hdrain, -⟩ := h
  refine ⟨?_, fun hl => ?_, hlp, hdf, hwords, ?_, fun hunlocked => by simp [hlocked] at hunlocked⟩
  · simpa [SizesOk] using hsizes
  · obtain ⟨hvalid, hcfgErr⟩ := hrun hl
    exact ⟨validated_of_configOf_eq (configOf_setGroup hG hconfig) hvalid, hcfgErr⟩
  · simpa [DrainOk] using hdrain

theorem forall_mem_set {α : Type} {l : List α} {p : α → Prop} (h : ∀ x ∈ l, p x) {y : α} (hy : p y) (k : ℕ) :
    ∀ x ∈ l.set k y, p x :=
  fun x hx => (List.mem_or_eq_of_mem_set hx).elim (h x) fun hxy => hxy ▸ hy

/-- In RUN mode a low-pass engine may be replaced by one with its coefficients (rules R251, R282). -/
theorem Inv.setLp (h : Inv s) (hlocked : s.locked = true) {e : ℕ} {l l' : LowPass} (hl : s.lp[e]? = some l)
    (hconfig : l'.config = l.config) (hspool : SpoolOk l'.spool) : Inv (s.setLp e l') := by
  obtain ⟨hsizes, hrun, hlp, hdf, hwords, hdrain, -⟩ := h
  refine ⟨?_, fun hl' => ?_, forall_mem_set hlp hspool e, hdf, hwords, hdrain,
    fun hunlocked => by simp [hlocked] at hunlocked⟩
  · simpa [SizesOk] using hsizes
  · obtain ⟨hvalid, hcfgErr⟩ := hrun hl'
    exact ⟨validated_of_configOf_eq (configOf_setLp hl hconfig) hvalid, hcfgErr⟩

/-- In RUN mode a differentiator may be replaced by one with its coefficients (rules R251, R282). -/
theorem Inv.setDf (h : Inv s) (hlocked : s.locked = true) {e : ℕ} {d d' : Diff} (hd : s.df[e]? = some d)
    (hconfig : d'.config = d.config) (hspool : SpoolOk d'.spool) : Inv (s.setDf e d') := by
  obtain ⟨hsizes, hrun, hlp, hdf, hwords, hdrain, -⟩ := h
  refine ⟨?_, fun hl' => ?_, hlp, forall_mem_set hdf hspool e, hwords, hdrain,
    fun hunlocked => by simp [hlocked] at hunlocked⟩
  · simpa [SizesOk] using hsizes
  · obtain ⟨hvalid, hcfgErr⟩ := hrun hl'
    exact ⟨validated_of_configOf_eq (configOf_setDf hd hconfig) hvalid, hcfgErr⟩

theorem Inv.lpSpool_of_getElem? (h : Inv s) {e : ℕ} {l : LowPass} (hl : s.lp[e]? = some l) : SpoolOk l.spool :=
  h.lpSpool l (List.mem_of_getElem? hl)

theorem Inv.dfSpool_of_getElem? (h : Inv s) {e : ℕ} {d : Diff} (hd : s.df[e]? = some d) : SpoolOk d.spool :=
  h.dfSpool d (List.mem_of_getElem? hd)

/-! ### Commands -/

/-- RUN mode asks for a legal entry only, so no decoder or encoder meets type 3 (rules R133, R270). -/
theorem Inv.legalEntry_of_entry (h : Inv s) (hlocked : s.locked = true) {n : ℕ} {c : LabelConfig}
    (hc : s.entry n = some c) : LegalEntry c := by
  obtain ⟨⟨htable, -⟩, -⟩ := h.run hlocked
  obtain ⟨hn, rfl, hen⟩ := (entry_eq_some s n c).mp hc
  exact htable ⟨n, hn⟩ hen

theorem Inv.legalEntry_of_lookup (h : Inv s) (hlocked : s.locked = true) {g : ℕ} {G : Group}
    (hG : s.groups[g]? = some G) {label : BitVec 8} {j : Fin Config.tableSize} (hj : G.lookup label = some j) :
    LegalEntry G.entries[j] := by
  obtain ⟨⟨-, hgroups⟩, -⟩ := h.run hlocked
  obtain ⟨-, hlegal, -⟩ := hgroups G (List.mem_of_getElem? hG)
  exact hlegal j ((lookup_eq_some G label j).mp hj).1

theorem decodeWord_ne_error {c : LabelConfig} (hc : LegalEntry c) {nan : Flt} {w : Word} {code : ResultCode}
    (h : decodeWord nan c w = .error code) : code ≠ .error := by
  rcases decodeWord_error nan c w code h with ⟨-, rfl⟩ | ⟨hreserved, -⟩
  · decide
  · exact absurd hreserved hc.1

theorem encodeWord_ne_error {c : LabelConfig} (hc : LegalEntry c) {nan x : Flt} {disc : Word} {ssm sdi : BitVec 2}
    {code : ResultCode} (h : encodeWord nan c x disc ssm sdi = .error code) : code ≠ .error := by
  rcases encodeWord_error nan c x disc ssm sdi code h with ⟨-, rfl⟩ | ⟨hreserved, -⟩
  · decide
  · exact absurd hreserved hc.1

theorem Inv.processReceived (h : Inv s) (hlocked : s.locked = true) {g : ℕ} {G : Group} (hG : s.groups[g]? = some G)
    (w : Word) : Inv (processReceived g G w s).2 ∧ (processReceived g G w s).1 ≠ .error := by
  rcases processReceived_cases g G w s with ⟨-, hp⟩ | ⟨j, code, hj, hcode, hp⟩ | ⟨j, r, -, -, hp⟩ <;> rw [hp]
  · exact ⟨h, by simp⟩
  · exact ⟨h, decodeWord_ne_error (h.legalEntry_of_lookup hlocked hG hj) hcode⟩
  · exact ⟨(h.setGroup hlocked hG (G.config_receive j w _ r)).withRest _ _ _, by simp⟩

/-- The word of a DRAIN's iteration is dropped, or a good receipt. -/
theorem Inv.drainWord (h : Inv s) (hlocked : s.locked = true) (g : ℕ) (w : Word) :
    Inv (drainWord g w s).2 ∧ (drainWord g w s).2.locked = true ∧
      (drainWord g w s).2.groups.length = s.groups.length := by
  rcases drainWord_cases g w s with hp | ⟨G, j, r, hG, -, -, -, hp⟩ <;> rw [hp]
  · exact ⟨h, hlocked, rfl⟩
  · exact ⟨(h.setGroup hlocked hG (G.config_receive j w _ r)).withRest _ _ _, hlocked, by simp⟩

theorem Inv.drainDone (h : Inv s) (hlocked : s.locked = true) (d : DrainProgress) : Inv (s.drainDone d) :=
  ((h.withOutputs hlocked h.outf_lt s.outw (BitVec.ofNat 32 d.nok) (BitVec.ofNat 32 d.nread) s.outt s.outa).withDrain
    (drain := none) (by simp [DrainOk])).finish (by decide) _

/-- One iteration keeps a DRAIN within its bounds (rule R205). -/
theorem Inv.drainIter (h : Inv s) (hlocked : s.locked = true) {d : DrainProgress} (hgrp : d.grp < s.groups.length)
    (hnok : d.nok ≤ d.nread) : Inv (drainIter d s) := by
  have hdrop : Inv (s.rxDrop d.grp) := h.withEnv (by simp)
  obtain ⟨hword, hlocked', hlength⟩ := hdrop.drainWord hlocked d.grp (s.rxHead d.grp)
  rcases drainIter_cases d s with ⟨-, hiter⟩ | ⟨p, -, rfl, ⟨-, hiter⟩ | ⟨hmax, hiter⟩⟩ <;> rw [hiter]
  · exact h.drainDone hlocked d
  · exact hword.drainDone hlocked' _
  · refine hword.withDrain ?_
    rintro _ ⟨⟩
    refine ⟨hlocked', hlength ▸ hgrp, Nat.le_add_left 1 _, hmax, ?_⟩
    dsimp only
    split_ifs <;> omega

theorem Inv.lock (h : Inv s) (hlocked : s.locked = false) (hvalid : Validated s) :
    Inv { s with locked := true, cfgErr := false } := by
  obtain ⟨hsizes, -, hlp, hdf, hwords, hdrain, -⟩ := h
  refine ⟨hsizes, fun _ => ⟨hvalid, rfl⟩, hlp, hdf, hwords, fun d hd => ?_, fun hunlocked => by simp at hunlocked⟩
  obtain ⟨hrun, -⟩ := hdrain d hd
  simp [hlocked] at hrun

theorem Inv.configError (h : Inv s) (hlocked : s.locked = false) {e : Word} (he : lockFailure s = some e) :
    Inv { s with cfgErr := true, errinfo := e } := by
  obtain ⟨r, table, g, idx, hfirst, rfl⟩ := lockFailure_eq_some_iff.mp he
  obtain ⟨hr, htable, hg, hidx⟩ := hfirst.bounds h.sizes
  obtain ⟨hsizes, -, hlp, hdf, ⟨hhigh, hle, hne, houtf, -⟩, hdrain, hquiet⟩ := h
  refine ⟨hsizes, fun hrun => by simp [hlocked] at hrun, hlp, hdf, ⟨hhigh, hle, hne, houtf, ?_⟩, hdrain, hquiet⟩
  exact errinfoWord_reserved (by omega) (by omega) (by omega) (by omega)

theorem Inv.exec (h : Inv s) {i : Instr} (hexec : exec i s = .next t) : Inv t := by
  apply exec_elim (P := Inv) i s t hexec
  case ends => exact fun code hcode => h.finish hcode _
  case lockFails => exact fun e _ hlocked he => (h.configError hlocked he).finish (by decide) _
  case locks =>
    exact fun _ hlocked hnone => (h.lock hlocked (lockFailure_eq_none_iff.mp hnone)).finish (by decide) _
  case dec =>
    exact fun n c code _ hlocked hc hcode =>
      h.finish (decodeWord_ne_error (h.legalEntry_of_entry hlocked hc) hcode) _
  case decoded =>
    exact fun n c r _ hlocked _ _ =>
      ((h.withOutputs hlocked (outfWord_lt _ _ _ _ _) _ _ _ _ _).withRest _ _ _).finish (by decide) _
  case enc =>
    exact fun n ssm sdi c code _ hlocked hc hcode =>
      h.finish (encodeWord_ne_error (h.legalEntry_of_entry hlocked hc) hcode) _
  case encoded =>
    exact fun n ssm sdi c r _ hlocked _ _ =>
      ((h.withOutputs hlocked h.outf_lt _ _ _ _ _).withRest _ _ _).finish (by split_ifs <;> decide) _
  case chkv =>
    exact fun n c _ hlocked _ => (h.withOutputs hlocked (outfWord_lt _ _ _ _ _) _ _ _ _ _).finish (by decide) _
  case rxw =>
    intro g G _ hlocked hG
    obtain ⟨hinv, hcode⟩ := h.processReceived hlocked hG s.opw
    exact hinv.finish hcode _
  case drain =>
    exact fun g G _ hlocked hG => h.drainIter hlocked (List.getElem?_eq_some_iff.mp hG).1 (Nat.le_refl 0)
  case tick =>
    intro g G _ hlocked hG
    have hset := h.setGroup hlocked hG
      (G' := { G with cnt := tickCount G.cnt, failed := decide (G.maxbf ≤ tickCount G.cnt) }) rfl
    exact (hset.withOutputs hlocked (outfWord_lt _ _ _ _ _) _ _ _ _ _).finish (by decide) _
  case getd =>
    exact fun g label G j _ hlocked _ _ =>
      (h.withOutputs hlocked (outfWord_lt _ _ _ _ _) _ _ _ _ _).finish (by decide) _
  case getw =>
    exact fun g octal G j _ hlocked _ _ =>
      (h.withOutputs hlocked (outfWord_lt _ _ _ _ _) _ _ _ _ _).finish (by decide) _
  case getwAbsent =>
    exact fun g octal G _ hlocked _ _ => (h.withOutputs hlocked (by decide) _ _ _ _ _).finish (by decide) _
  case lp =>
    intro e l l' hlocked hl hcleared
    have hkept : l'.config = l.config ∧ l'.spool = l.spool := by
      rcases hcleared with ⟨-, rfl⟩ | ⟨-, rfl⟩ <;> exact ⟨rfl, rfl⟩
    exact (h.setLp hlocked hl hkept.1 (hkept.2 ▸ h.lpSpool_of_getElem? hl)).finish (by decide) _
  case lpstep =>
    intro e l _ hlocked hl
    have hspool : SpoolOk l.spool := h.lpSpool_of_getElem? hl
    have hset := h.setLp hlocked hl (l' := (l.next s.nan s.opa).2) rfl hspool
    exact ((hset.withOutputs hlocked h.outf_lt _ _ _ _ _).withRest _ _ _).finish (by decide) _
  case lpspool =>
    intro e n valid l c r _ hlocked hl _ hr
    have hconfig : r.engine.config = l.config := hr ▸ l.config_spoolCycle s.nan l.spool c valid s.opa
    have hspool : SpoolOk r.spool := hr ▸ (h.lpSpool_of_getElem? hl).spoolCycle c valid s.opa
    have hset := h.setLp hlocked hl (l' := { r.engine with spool := r.spool }) hconfig hspool
    exact ((hset.withOutputs hlocked (outfWord_lt _ _ _ _ _) _ _ _ _ _).withRest _ _ _).finish (by decide) _
  case df =>
    intro e d d' hlocked hd hcleared
    have hkept : d'.config = d.config ∧ d'.spool = d.spool := by
      rcases hcleared with ⟨-, rfl⟩ | ⟨-, rfl⟩ <;> exact ⟨rfl, rfl⟩
    exact (h.setDf hlocked hd hkept.1 (hkept.2 ▸ h.dfSpool_of_getElem? hd)).finish (by decide) _
  case dfstep =>
    intro e d _ hlocked hd
    have hspool : SpoolOk d.spool := h.dfSpool_of_getElem? hd
    have hset := h.setDf hlocked hd (d' := (d.next s.nan s.opa).2) rfl hspool
    exact ((hset.withOutputs hlocked h.outf_lt _ _ _ _ _).withRest _ _ _).finish (by decide) _
  case dfspool =>
    intro e n valid d c r _ hlocked hd _ hr
    have hconfig : r.engine.config = d.config := hr ▸ d.config_spoolCycle s.nan d.spool c valid s.opa
    have hspool : SpoolOk r.spool := hr ▸ (h.dfSpool_of_getElem? hd).spoolCycle c valid s.opa
    have hset := h.setDf hlocked hd (d' := { r.engine with spool := r.spool }) hconfig hspool
    exact ((hset.withOutputs hlocked (outfWord_lt _ _ _ _ _) _ _ _ _ _).withRest _ _ _).finish (by decide) _

end Sys2Proof.Safety
end

section
/-! PROOFS. Every step keeps the invariant (rules R48, R72, R133, R301): the host's accesses, the turns of the agents
and the reset. -/

namespace Sys2Proof.Safety

open Sys2Proof.Machine Sys2Proof.Spec

variable {s t : State}

/-! ### Configuration writes -/

theorem forall_mem_modify {α : Type} {l : List α} {p : α → Prop} (h : ∀ x ∈ l, p x) {f : α → α}
    (hf : ∀ x, p x → p (f x)) (k : ℕ) : ∀ x ∈ l.modify k f, p x := by
  intro y hy
  obtain ⟨i, hi⟩ := List.mem_iff_getElem?.mp hy
  rw [List.getElem?_modify] at hi
  obtain ⟨x, hx, rfl⟩ := Option.map_eq_some_iff.mp hi
  have hpx := h x (List.mem_of_getElem? hx)
  split
  · exact hf x hpx
  · exact hpx

theorem Inv.configWrite (h : Inv s) (hwrite : s.locked = false → Inv t) : Inv (configWrite s t) := by
  cases hlocked : s.locked with
  | true => rwa [configWrite_of_locked hlocked]
  | false =>
    rw [configWrite_of_unlocked hlocked]
    exact hwrite hlocked

/-- In CONFIG mode the configuration of a group is free. -/
theorem Inv.modifyGroup (h : Inv s) (hlocked : s.locked = false) (g : ℕ) {f : Group → Group}
    (hf : ∀ G, (f G).cnt = G.cnt ∧ (f G).failed = G.failed ∧ (f G).slots = G.slots) :
    Inv { s with groups := s.groups.modify g f } := by
  obtain ⟨hsizes, -, hlp, hdf, hwords, hdrain, hquiet⟩ := h
  obtain ⟨houtw, houtd, houta, houti, houtf, houtt, hgroups, hengines⟩ := hquiet hlocked
  refine ⟨by simpa [SizesOk] using hsizes, fun hrun => by simp [hlocked] at hrun, hlp, hdf, hwords,
    by simpa [DrainOk] using hdrain,
    fun _ => ⟨houtw, houtd, houta, houti, houtf, houtt, forall_mem_modify hgroups (fun G hG => ?_) g, hengines⟩⟩
  obtain ⟨hcnt, hfailed, hslots⟩ := hf G
  rwa [hcnt, hfailed, hslots]

/-- In CONFIG mode the coefficients of a low-pass engine are free. -/
theorem Inv.modifyLp (h : Inv s) (hlocked : s.locked = false) (e : ℕ) {f : LowPass → LowPass}
    (hf : ∀ l, (f l).prev = l.prev ∧ (f l).pre = l.pre ∧ (f l).spool = l.spool) :
    Inv { s with lp := s.lp.modify e f } := by
  obtain ⟨hsizes, -, hlp, hdf, hwords, hdrain, hquiet⟩ := h
  obtain ⟨houtw, houtd, houta, houti, houtf, houtt, hgroups, hlpQuiet, hdfQuiet⟩ := hquiet hlocked
  refine ⟨by simpa [SizesOk] using hsizes, fun hrun => by simp [hlocked] at hrun,
    forall_mem_modify hlp (fun l hl => ?_) e, hdf, hwords, hdrain,
    fun _ => ⟨houtw, houtd, houta, houti, houtf, houtt, hgroups, forall_mem_modify hlpQuiet (fun l hl => ?_) e,
      hdfQuiet⟩⟩
  all_goals
    obtain ⟨hprev, hpre, hspool⟩ := hf l
    simpa only [hprev, hpre, hspool] using hl

/-- In CONFIG mode the coefficients of a differentiator are free. -/
theorem Inv.modifyDf (h : Inv s) (hlocked : s.locked = false) (e : ℕ) {f : Diff → Diff}
    (hf : ∀ d, (f d).pin = d.pin ∧ (f d).pout = d.pout ∧ (f d).spool = d.spool) :
    Inv { s with df := s.df.modify e f } := by
  obtain ⟨hsizes, -, hlp, hdf, hwords, hdrain, hquiet⟩ := h
  obtain ⟨houtw, houtd, houta, houti, houtf, houtt, hgroups, hlpQuiet, hdfQuiet⟩ := hquiet hlocked
  refine ⟨by simpa [SizesOk] using hsizes, fun hrun => by simp [hlocked] at hrun, hlp,
    forall_mem_modify hdf (fun d hd => ?_) e, hwords, hdrain,
    fun _ => ⟨houtw, houtd, houta, houti, houtf, houtt, hgroups, hlpQuiet,
      forall_mem_modify hdfQuiet (fun d hd => ?_) e⟩⟩
  all_goals
    obtain ⟨hpin, hpout, hspool⟩ := hf d
    simpa only [hpin, hpout, hspool] using hd

theorem Inv.withTable (h : Inv s) (hlocked : s.locked = false) (ct : Vector LabelConfig Config.tableSize) :
    Inv { s with ct := ct } := by
  obtain ⟨hsizes, -, hlp, hdf, hwords, hdrain, hquiet⟩ := h
  exact ⟨hsizes, fun hrun => by simp [hlocked] at hrun, hlp, hdf, hwords, hdrain, hquiet⟩

theorem writeLp_keeps (l : LowPass) (r : LpReg) (v : Word) :
    (writeLp l r v).prev = l.prev ∧ (writeLp l r v).pre = l.pre ∧ (writeLp l r v).spool = l.spool := by
  cases r <;> exact ⟨rfl, rfl, rfl⟩

theorem writeDf_keeps (d : Diff) (r : DfReg) (v : Word) :
    (writeDf d r v).pin = d.pin ∧ (writeDf d r v).pout = d.pout ∧ (writeDf d r v).spool = d.spool := by
  cases r <;> exact ⟨rfl, rfl, rfl⟩

/-- A register write reaches operands, CMDERR and, in CONFIG mode, the configuration (rules R32, R35, R48). -/
theorem Inv.writeReg (h : Inv s) (r : Reg) (v : Word) : Inv (writeReg s r v) := by
  cases r with
  | status | opw | opd | opa x => exact h.withInputs rfl _ _ _ _ _ _ _
  | gnum g | gmaxbf g | entry g j x =>
    exact h.configWrite fun hlocked => h.modifyGroup hlocked g fun _ => ⟨rfl, rfl, rfl⟩
  | lp e x => exact h.configWrite fun hlocked => h.modifyLp hlocked e fun l => writeLp_keeps l x v
  | df e x => exact h.configWrite fun hlocked => h.modifyDf hlocked e fun d => writeDf_keeps d x v
  | ct n x => exact h.configWrite fun hlocked => h.withTable hlocked _
  | _ => exact h

theorem Inv.busWrite (h : Inv s) (a : BitVec 16) (v : Word) : Inv (busWrite s a v) := by
  unfold Machine.busWrite
  split
  · exact h.writeReg _ v
  · exact h

/-! ### Turns -/

theorem Inv.illegalCommand (h : Inv s) (c : Word) : Inv (s.illegalCommand c) :=
  (h.finish (code := .illegalCommand) (by decide) _).withInputs rfl true _ _ _ _ _ _

theorem Inv.command (h : Inv s) {c : Word} (hcommand : command c s = .next t) : Inv t := by
  rcases command_cases c s t hcommand with ⟨i, -, hexec⟩ | ⟨e, -, rfl⟩
  · exact h.exec hexec
  · exact h.illegalCommand c

theorem Inv.access (h : Inv s) {x : Txn} (haccess : access Machine.command x s = .next t) : Inv t := by
  rcases access_cases x s t haccess with rfl | ⟨a, -, rfl⟩ | ⟨a, v, -, -, rfl⟩ | ⟨v, u, -, hcommand, rfl⟩
  · exact h.withRest _ _ _
  · exact h.withRest _ _ _
  · exact (h.busWrite a v).withRest _ _ _
  · exact (h.command hcommand).withRest _ _ _

theorem Inv.drainTurn (h : Inv s) {d : DrainProgress} (hd : s.drain = some d) : Inv (s.drainTurn d) := by
  obtain ⟨hlocked, hgrp, -, -, hnok⟩ := h.drain d hd
  exact (h.drainIter hlocked hgrp hnok).withRest _ _ _

/-- The reset values satisfy the invariant in an implementation of legal sizes (rules R8, R301). -/
theorem Inv.applyReset (hsizes : SizesOk s) : Inv s.applyReset where
  sizes := by simpa [SizesOk, State.applyReset, State.resetWith] using hsizes
  run := nofun
  lpSpool l hl := by
    obtain rfl := List.eq_of_mem_replicate hl
    decide
  dfSpool d hd := by
    obtain rfl := List.eq_of_mem_replicate hd
    decide
  words := by simp [WordsOk, State.applyReset, State.resetWith]
  drain := nofun
  quiet _ := by
    refine ⟨rfl, rfl, rfl, rfl, rfl, rfl, fun G hG => ?_, fun l hl => ?_, fun d hd => ?_⟩
    · obtain rfl := List.eq_of_mem_replicate hG
      exact ⟨rfl, rfl, rfl⟩
    · obtain rfl := List.eq_of_mem_replicate hl
      exact ⟨rfl, rfl, rfl⟩
    · obtain rfl := List.eq_of_mem_replicate hd
      exact ⟨rfl, rfl, rfl⟩

/-- Settles O59, turn by turn. -/
theorem everyStepKeepsTheInvariant : Obligations.EveryStepKeepsTheInvariant := by
  unfold Obligations.EveryStepKeepsTheInvariant
  intro s t h hstep
  have htaken (rest : List Event) : Inv { s with agenda := rest } := h.withRest rest s.resp s.free
  rcases step_cases s t hstep with ⟨d, hd, hdrain⟩ | ⟨-, -, rfl⟩ | ⟨rest, -, -, rfl⟩ | ⟨x, rest, -, -, haccess⟩ |
    ⟨n, rest, -, rfl⟩ | ⟨g, ws, rest, -, rfl⟩ | ⟨rest, -, rfl⟩
  · rcases hdrain with ⟨-, rfl⟩ | ⟨rest, -, rfl⟩
    · exact h.drainTurn hd
    · exact (htaken rest).drainTurn hd
  · exact h
  · exact htaken rest
  · exact (htaken rest).access haccess
  · exact (htaken rest).withEnv rfl
  · exact (htaken rest).withEnv (by simp)
  · exact Inv.applyReset (htaken rest).sizes

end Sys2Proof.Safety
end

section
/-! PROOFS. The fields of an ARINC word (rules R10, R100, R101): a word is the OR of numbers each put at its place, and
a field that meets one of them reads that number. -/

namespace Sys2Proof.Spec

open Sys2Proof.Machine

/-! ### Fields as numbers -/

/-- The model's field and the statements' bits are the same number. -/
theorem field_toNat (w : Word) (lo k : ℕ) : (field w lo k).toNat = w.toNat / 2 ^ lo % 2 ^ k := by
  apply Nat.eq_of_testBit_eq
  intro i
  simp only [field, BitVec.testBit_toNat, BitVec.getLsbD_and, BitVec.getLsbD_ushiftRight, getLsbD_mask,
    Nat.testBit_mod_two_pow, Nat.testBit_div_two_pow]
  by_cases hi : i < 32
  · simp [hi, Bool.and_comm, Nat.add_comm]
  · simp [hi, BitVec.getLsbD_of_ge w (i + lo) (by omega)]

/-- A word under a mask, put at a place. -/
theorem and_mask_shiftLeft (v : Word) (k lo : ℕ) :
    (v &&& mask k) <<< lo = BitVec.ofNat 32 (v.toNat % 2 ^ k * 2 ^ lo) := by
  have hfield := field_toNat v 0 k
  simp only [field, BitVec.ushiftRight_zero, pow_zero, Nat.div_one] at hfield
  apply BitVec.eq_of_toNat_eq
  rw [BitVec.toNat_shiftLeft, hfield, Nat.shiftLeft_eq, BitVec.toNat_ofNat]

theorem discreteBits_eq (c : LabelConfig) (w : Word) : discreteBits c w = BitVec.ofNat 32 (discOf c w) := by
  apply BitVec.eq_of_toNat_eq
  rw [discreteBits, field_toNat, BitVec.toNat_ofNat, discOf]
  exact (Nat.mod_eq_of_lt ((Nat.mod_le _ _).trans_lt ((Nat.div_le_self _ _).trans_lt w.isLt))).symm

theorem wordSsm_eq (w : Word) : wordSsm w = BitVec.ofNat 2 (bits w 30 29) := by
  apply BitVec.eq_of_toNat_eq
  simp [wordSsm, bits, BitVec.extractLsb'_toNat, Nat.shiftRight_eq_div_pow]

theorem wordSdi_eq (w : Word) : wordSdi w = BitVec.ofNat 2 (bits w 9 8) := by
  apply BitVec.eq_of_toNat_eq
  simp [wordSdi, bits, BitVec.extractLsb'_toNat, Nat.shiftRight_eq_div_pow]

theorem setWidth_eight_eq (w : Word) : w.setWidth 8 = BitVec.ofNat 8 (bits w 7 0) := by
  apply BitVec.eq_of_toNat_eq
  simp [bits]

theorem getLsbD_eq_false_of_bits {w : Word} {i : ℕ} (h : bits w i i = 0) : w.getLsbD i = false := by
  rw [bits, Nat.add_sub_cancel_left, pow_one] at h
  rw [← BitVec.testBit_toNat, Nat.testBit_eq_decide_div_mod_eq, h]
  rfl

/-! ### Numbers at their place -/

/-- The number `x` at bit `lo` of a word. -/
def placed (lo x : ℕ) : Word := BitVec.ofNat 32 (x * 2 ^ lo)

theorem bits_or (a b : Word) (hi lo : ℕ) : bits (a ||| b) hi lo = bits a hi lo ||| bits b hi lo := by
  rw [bits, BitVec.toNat_or, Nat.or_div_two_pow, Nat.or_mod_two_pow, bits, bits]

theorem bits_eq_zero_of_toNat_lt {w : Word} {hi lo : ℕ} (h : w.toNat < 2 ^ lo) : bits w hi lo = 0 := by
  rw [bits, Nat.div_eq_of_lt h, Nat.zero_mod]

theorem placed_toNat {lo x k : ℕ} (hx : x < 2 ^ k) (hk : lo + k ≤ 32) : (placed lo x).toNat = x * 2 ^ lo := by
  have hlt : x * 2 ^ lo < 2 ^ (lo + k) := by
    rw [pow_add, mul_comm]
    exact Nat.mul_lt_mul_of_pos_left hx (Nat.two_pow_pos lo)
  rw [placed, BitVec.toNat_ofNat, Nat.mod_eq_of_lt (hlt.trans_le (Nat.pow_le_pow_right Nat.two_pos hk))]

theorem placed_lt {lo x k : ℕ} (hx : x < 2 ^ k) : (placed lo x).toNat < 2 ^ (lo + k) := by
  rw [placed, BitVec.toNat_ofNat, pow_add, mul_comm x]
  exact (Nat.mod_le _ _).trans_lt (Nat.mul_lt_mul_of_pos_left hx (Nat.two_pow_pos lo))

/-- A field of the number's own place reads the number. -/
theorem bits_placed_same {lo x hi : ℕ} (hx : x < 2 ^ (hi + 1 - lo)) (hhi : hi < 32) (hlo : lo ≤ hi) :
    bits (placed lo x) hi lo = x := by
  rw [bits, placed_toNat hx (by omega), Nat.mul_div_cancel _ (Nat.two_pow_pos lo), Nat.mod_eq_of_lt hx]

/-- A field above the number's place reads 0. -/
theorem bits_placed_above {p x k hi lo : ℕ} (hx : x < 2 ^ k) (hk : p + k ≤ lo) : bits (placed p x) hi lo = 0 :=
  bits_eq_zero_of_toNat_lt ((placed_lt hx).trans_le (Nat.pow_le_pow_right Nat.two_pos hk))

/-- A field below the number's place reads 0. -/
theorem bits_placed_below {p x hi lo : ℕ} (h : hi < p) : bits (placed p x) hi lo = 0 := by
  apply Nat.eq_of_testBit_eq
  intro i
  simp only [bits, Nat.zero_testBit, Nat.testBit_mod_two_pow, Nat.testBit_div_two_pow, placed, BitVec.toNat_ofNat,
    Nat.testBit_mul_two_pow]
  by_cases hi' : i < hi + 1 - lo
  · simp [show ¬ p ≤ i + lo by omega]
  · simp [hi']

/-- A number put above the bits in use is added. -/
theorem or_placed_toNat {w : Word} {lo x k : ℕ} (hw : w.toNat < 2 ^ lo) (hx : x < 2 ^ k) (hk : lo + k ≤ 32) :
    (w ||| placed lo x).toNat = w.toNat + x * 2 ^ lo := by
  rw [BitVec.toNat_or, placed_toNat hx hk, mul_comm x, Nat.or_comm, ← Nat.two_pow_add_eq_or_of_lt hw, Nat.add_comm]

/-! ### Label, SDI, SSM and the discrete bits -/

theorem setWidth_shiftLeft_eq_placed {k : ℕ} (x : BitVec k) (hk : k ≤ 32) (lo : ℕ) :
    x.setWidth 32 <<< lo = placed lo x.toNat := by
  apply BitVec.eq_of_toNat_eq
  rw [BitVec.toNat_shiftLeft, BitVec.toNat_setWidth_of_le hk, Nat.shiftLeft_eq, placed, BitVec.toNat_ofNat]

theorem discretePart_eq (c : LabelConfig) (disc : Word) : discretePart c disc = discAt10 c disc :=
  and_mask_shiftLeft disc c.ndisc.toNat 10

theorem encCommon_eq_placed (c : LabelConfig) (ssm sdi : BitVec 2) :
    encCommon c ssm sdi = placed 0 c.label.toNat ||| placed 8 sdi.toNat ||| placed 29 ssm.toNat := by
  have hlabel := placed_toNat (lo := 0) c.label.isLt (by decide)
  have hlt := c.label.isLt
  have hsdi := sdi.isLt
  have h1 := or_placed_toNat (w := placed 0 c.label.toNat) (lo := 8) (by omega) hsdi (by decide)
  have h2 := or_placed_toNat (w := placed 0 c.label.toNat ||| placed 8 sdi.toNat) (lo := 29) (by omega) ssm.isLt
    (by decide)
  rw [hlabel] at h1
  apply BitVec.eq_of_toNat_eq
  rw [h2, h1, encCommon, BitVec.toNat_ofNat]
  omega

/-- The fields every encoder ORs in, as the model writes them. -/
theorem encCommon_eq (c : LabelConfig) (ssm sdi : BitVec 2) :
    encCommon c ssm sdi = c.label.setWidth 32 ||| sdiPart sdi ||| ssmPart ssm := by
  rw [encCommon_eq_placed, sdiPart, ssmPart, setWidth_shiftLeft_eq_placed sdi (by decide),
    setWidth_shiftLeft_eq_placed ssm (by decide), ← setWidth_shiftLeft_eq_placed c.label (by decide),
    BitVec.shiftLeft_zero]

section
variable (c : LabelConfig) (ssm sdi : BitVec 2)

theorem bits_encCommon_label : bits (encCommon c ssm sdi) 7 0 = c.label.toNat := by
  rw [encCommon_eq_placed, bits_or, bits_or, bits_placed_same c.label.isLt (by decide) (by decide),
    bits_placed_below (by decide), bits_placed_below (by decide), Nat.or_zero, Nat.or_zero]

theorem bits_encCommon_sdi : bits (encCommon c ssm sdi) 9 8 = sdi.toNat := by
  rw [encCommon_eq_placed, bits_or, bits_or, bits_placed_above c.label.isLt (by decide),
    bits_placed_same sdi.isLt (by decide) (by decide), bits_placed_below (by decide), Nat.zero_or, Nat.or_zero]

theorem bits_encCommon_ssm : bits (encCommon c ssm sdi) 30 29 = ssm.toNat := by
  rw [encCommon_eq_placed, bits_or, bits_or, bits_placed_above c.label.isLt (by decide),
    bits_placed_above sdi.isLt (by decide), bits_placed_same ssm.isLt (by decide) (by decide), Nat.zero_or,
    Nat.zero_or]

theorem bits_encCommon_top : bits (encCommon c ssm sdi) 31 31 = 0 := by
  rw [encCommon_eq_placed, bits_or, bits_or, bits_placed_above c.label.isLt (by decide),
    bits_placed_above sdi.isLt (by decide), bits_placed_above ssm.isLt (by decide), Nat.zero_or, Nat.zero_or]

/-- The data field holds nothing of label, SDI and SSM; nor do the SDI bits where the SDI is 0. -/
theorem bits_encCommon_data {hi lo : ℕ} (hhi : hi ≤ 28) (hlo : 10 ≤ lo ∨ 8 ≤ lo ∧ sdi = 0) :
    bits (encCommon c ssm sdi) hi lo = 0 := by
  have hsdi : bits (placed 8 sdi.toNat) hi lo = 0 := by
    rcases hlo with hlo | ⟨-, rfl⟩
    · exact bits_placed_above sdi.isLt hlo
    · exact bits_eq_zero_of_toNat_lt (Nat.two_pow_pos lo)
  rw [encCommon_eq_placed, bits_or, bits_or, bits_placed_above c.label.isLt (by omega), hsdi,
    bits_placed_below (by omega), Nat.zero_or, Nat.zero_or]

variable (disc : Word)

theorem discOf_eq_bits (w : Word) : discOf c w = bits w (9 + c.ndisc.toNat) 10 := by
  rw [discOf, bits, show 9 + c.ndisc.toNat + 1 - 10 = c.ndisc.toNat by omega]

theorem discAt10_lt : (discAt10 c disc).toNat < 2 ^ (10 + c.ndisc.toNat) :=
  placed_lt (Nat.mod_lt _ (Nat.two_pow_pos _))

theorem bits_discAt10_low {hi lo : ℕ} (h : hi < 10) : bits (discAt10 c disc) hi lo = 0 := bits_placed_below h

theorem bits_discAt10_high {hi lo : ℕ} (h : c.ndisc = 0 ∨ 10 + c.ndisc.toNat ≤ lo) :
    bits (discAt10 c disc) hi lo = 0 := by
  rcases h with h | h
  · have hzero : c.ndisc.toNat = 0 := by rw [h]; rfl
    rw [discAt10, hzero, pow_zero, Nat.mod_one, Nat.zero_mul]
    exact bits_eq_zero_of_toNat_lt (Nat.two_pow_pos lo)
  · exact bits_eq_zero_of_toNat_lt ((discAt10_lt c disc).trans_le (Nat.pow_le_pow_right Nat.two_pos h))

theorem discOf_discAt10 (hdisc : c.ndisc.toNat ≤ 19) :
    discOf c (discAt10 c disc) = disc.toNat % 2 ^ c.ndisc.toNat := by
  have hplaced := placed_toNat (lo := 10) (Nat.mod_lt disc.toNat (Nat.two_pow_pos c.ndisc.toNat)) (by omega)
  rw [placed] at hplaced
  rw [discOf, discAt10, hplaced, Nat.mul_div_cancel _ (Nat.two_pow_pos 10), Nat.mod_mod]

end

/-! ### Words with a value field -/

/-- The word of a BNR or BCD value: its data field, the discrete bits, and what every encoder ORs in. -/
def dataWord (c : LabelConfig) (data disc : Word) (ssm sdi : BitVec 2) : Word :=
  data ||| discAt10 c disc ||| encCommon c ssm sdi

/-- The word as the encoders put it together (rules R154, R155). -/
theorem dataWord_eq (c : LabelConfig) (data disc : Word) (ssm sdi : BitVec 2) :
    data ||| c.label.setWidth 32 ||| discretePart c disc ||| sdiPart sdi ||| ssmPart ssm =
      dataWord c data disc ssm sdi := by
  rw [dataWord, encCommon_eq, discretePart_eq]
  generalize c.label.setWidth 32 = label, discAt10 c disc = discrete, sdiPart sdi = sdi, ssmPart ssm = ssm
  ac_rfl

section
variable {c : LabelConfig} {data disc : Word} {ssm sdi : BitVec 2}

theorem bits_dataWord (hi lo : ℕ) : bits (dataWord c data disc ssm sdi) hi lo =
    bits data hi lo ||| bits (discAt10 c disc) hi lo ||| bits (encCommon c ssm sdi) hi lo := by
  rw [dataWord, bits_or, bits_or]

/-- The value field, from above the discrete bits on. -/
theorem bits_dataWord_value {hi lo : ℕ} (hhi : hi ≤ 28) (hdisc : c.ndisc = 0 ∨ 10 + c.ndisc.toNat ≤ lo)
    (hsdi : 10 ≤ lo ∨ 8 ≤ lo ∧ sdi = 0) : bits (dataWord c data disc ssm sdi) hi lo = bits data hi lo := by
  rw [bits_dataWord, bits_discAt10_high c disc hdisc, bits_encCommon_data c ssm sdi hhi hsdi, Nat.or_zero, Nat.or_zero]

theorem discOf_dataWord (hdisc : c.ndisc.toNat ≤ 19) (hdata : discOf c data = 0) :
    discOf c (dataWord c data disc ssm sdi) = disc.toNat % 2 ^ c.ndisc.toNat := by
  rw [discOf_eq_bits] at hdata
  rw [discOf_eq_bits, bits_dataWord, hdata, ← discOf_eq_bits, discOf_discAt10 c disc hdisc,
    bits_encCommon_data c ssm sdi (by omega) (.inl (by decide)), Nat.zero_or, Nat.or_zero]

theorem bits_dataWord_sdi (hdata : bits data 9 8 = 0) : bits (dataWord c data disc ssm sdi) 9 8 = sdi.toNat := by
  rw [bits_dataWord, hdata, bits_discAt10_low c disc (by decide), bits_encCommon_sdi, Nat.zero_or, Nat.zero_or]

theorem setWidth_dataWord (hdata : bits data 7 0 = 0) : (dataWord c data disc ssm sdi).setWidth 8 = c.label := by
  rw [setWidth_eight_eq, bits_dataWord, hdata, bits_discAt10_low c disc (by decide), bits_encCommon_label, Nat.zero_or,
    Nat.zero_or, BitVec.ofNat_toNat, BitVec.setWidth_eq]

section
variable (hdisc : c.ndisc.toNat ≤ 19) (hdata : data.toNat < 2 ^ 29)
include hdisc hdata

theorem bits_dataWord_ssm : bits (dataWord c data disc ssm sdi) 30 29 = ssm.toNat := by
  rw [bits_dataWord, bits_eq_zero_of_toNat_lt hdata, bits_discAt10_high c disc (.inr (by omega)), bits_encCommon_ssm,
    Nat.zero_or, Nat.zero_or]

theorem getLsbD_dataWord_top : (dataWord c data disc ssm sdi).getLsbD 31 = false := by
  apply getLsbD_eq_false_of_bits
  rw [bits_dataWord, bits_encCommon_top, bits_discAt10_high c disc (.inr (by omega)),
    bits_eq_zero_of_toNat_lt (hdata.trans (by decide)), Nat.zero_or, Nat.zero_or]

end

end

end Sys2Proof.Spec
end

section
/-! PROOFS. Engineering values of a legal entry (rules R132, R150, R154, R155): the resolution is finite and positive,
so neither the product of a decoder nor the quotient of an encoder reads a free NaN. -/

namespace Sys2Proof.Machine

open Sys2Proof.Safety Sys2Proof.Spec

/-! ### Resolutions -/

theorem Flt.key_pos {x : Flt} (hfin : Flt.isFinite x = true) (hpos : Flt.lt 0 x = true) : 0 < Flt.key x := by
  rwa [Flt.lt_eq (by decide) (Flt.not_isNaN_of_isFinite hfin), decide_eq_true_iff, show Flt.key 0 = 0 by decide] at hpos

theorem Flt.sign_of_key_pos {x : Flt} (h : 0 < Flt.key x) : Flt.sign x = false := by
  rw [Flt.key_eq] at h
  cases hs : Flt.sign x with
  | false => rfl
  | true =>
    rw [hs, if_pos rfl] at h
    omega

theorem Flt.isZero_of_key_pos {x : Flt} (h : 0 < Flt.key x) : Flt.isZero x = false := by
  rw [Flt.key_eq, Flt.sign_of_key_pos h, if_neg Bool.false_ne_true] at h
  rw [← Bool.not_eq_true, Flt.isZero_iff]
  omega

/-- A product with a finite nonzero value reads no NaN it is given, unless the other factor is a NaN. -/
theorem Flt.mul_nonzero (nan nan' x y : Flt) (hx : Flt.isNaN x = false) (hy : Flt.isFinite y = true)
    (h0 : Flt.isZero y = false) : Flt.mul nan x y = Flt.mul nan' x y := by
  simp [Flt.mul, hx, h0, Flt.not_isNaN_of_isFinite hy, Flt.not_isInf_of_isFinite hy]

/-- A resolution that LOCK accepts (rule R132). -/
structure ResolutionOk (x : Flt) : Prop where
  finite : Flt.isFinite x = true
  positive : Flt.lt 0 x = true

section
variable {res : Flt} (h : ResolutionOk res)
include h

theorem ResolutionOk.key_pos : 0 < Flt.key res := Flt.key_pos h.finite h.positive

theorem ResolutionOk.mul_ofInt (nan nan' : Flt) (z : ℤ) :
    Flt.mul nan (Flt.ofInt z) res = Flt.mul nan' (Flt.ofInt z) res :=
  Flt.mul_nonzero nan nan' _ res (Flt.isNaN_round _ _ _) h.finite (Flt.isZero_of_key_pos h.key_pos)

theorem ResolutionOk.div {x : Flt} (hx : Flt.isNaN x = false) (nan nan' : Flt) :
    Flt.div nan x res = Flt.div nan' x res :=
  Flt.div_nonzero nan nan' x res hx h.finite (Flt.isZero_of_key_pos h.key_pos)

end

/-! ### Legal entries by type -/

theorem legalEntry_bnr {c : LabelConfig} (h : LegalEntry c) (htype : c.msgType = .bnr) :
    1 ≤ c.nsig.toNat ∧ c.nsig.toNat ≤ 20 ∧ c.ndisc.toNat ≤ 19 ∧ ResolutionOk c.res := by
  obtain ⟨-, hbnr, -, -, hres, -⟩ := h
  obtain ⟨hpos, hle, hdisc⟩ := hbnr htype
  obtain ⟨hfin, hres⟩ := hres (.inl htype)
  exact ⟨hpos, hle, hdisc, hfin, hres⟩

theorem legalEntry_bcd {c : LabelConfig} (h : LegalEntry c) (htype : c.msgType = .bcd) :
    1 ≤ c.nsig.toNat ∧ c.nsig.toNat ≤ 5 ∧ 4 * c.nsig.toNat - 1 + c.ndisc.toNat ≤ 19 ∧ ResolutionOk c.res := by
  obtain ⟨-, -, hbcd, -, hres, -⟩ := h
  obtain ⟨hpos, hle, -, hwidth⟩ := hbcd htype
  obtain ⟨hfin, hres⟩ := hres (.inr htype)
  exact ⟨hpos, hle, hwidth, hfin, hres⟩

theorem legalEntry_discrete {c : LabelConfig} (h : LegalEntry c) (htype : c.msgType = .discrete) :
    1 ≤ c.ndisc.toNat ∧ c.ndisc.toNat ≤ 19 := by
  obtain ⟨-, -, -, hdiscrete, -⟩ := h
  exact hdiscrete htype

/-! ### Quotients that are not negative -/

/-- A value that is not below 0 and has its sign bit set is −0.0. -/
theorem Flt.magBits_eq_zero_of_not_lt {x : Flt} (hnan : Flt.isNaN x = false) (hneg : Flt.lt x 0 = false)
    (hsign : Flt.sign x = true) : Flt.magBits x = 0 := by
  rw [Flt.lt_eq hnan (by decide), decide_eq_false_iff_not, show Flt.key 0 = 0 by decide, Flt.key_eq,
    if_pos hsign] at hneg
  omega

theorem clampI32_nonneg {z : ExtInt} (h : z = .posInf ∨ ∃ n : ℕ, z = .fin n) : 0 ≤ clampI32 z := by
  rcases h with rfl | ⟨n, rfl⟩ <;> simp only [clampI32] <;> omega

theorem Flt.roundHalfAway_of_sign_eq_false {x : Flt} (hnan : Flt.isNaN x = false) (hsign : Flt.sign x = false) :
    Flt.roundHalfAway x = .posInf ∨ ∃ n : ℕ, Flt.roundHalfAway x = .fin n := by
  rcases Flt.classify x with h | h | h
  · simp [hnan] at h
  · left
    simp [Flt.roundHalfAway, hnan, h, hsign]
  · right
    rw [Flt.roundHalfAway_finite ((Flt.isFinite_iff x).mp h), hsign]
    exact ⟨_, rfl⟩

theorem Flt.roundHalfAway_of_isZero {x : Flt} (h : Flt.isZero x = true) : Flt.roundHalfAway x = .fin 0 := by
  have hfin : FiniteValue x := (Flt.finiteValue_iff x).mpr (by rw [(Flt.isZero_iff x).mp h]; decide)
  have hlow := (Flt.roundedMagnitude_bounds x).1
  rw [(Flt.value_eq_zero_iff x).mpr h, abs_zero] at hlow
  have hle : (Flt.roundedMagnitude x : ℚ) < 1 := by linarith
  have hzero : Flt.roundedMagnitude x = 0 := Nat.lt_one_iff.mp (by exact_mod_cast hle)
  simp [Flt.roundHalfAway_finite hfin, hzero]

theorem Flt.mant_of_isZero {x : Flt} (h : Flt.isZero x = true) : Flt.mant x = 0 := by
  simp only [Flt.isZero, Bool.and_eq_true, beq_iff_eq] at h
  obtain ⟨hexpo, hfrac⟩ := h
  rw [Flt.mant, if_pos hexpo, hfrac]

section
variable {res : Flt} (h : ResolutionOk res) (nan : Flt) {x : Flt}
include h

theorem ResolutionOk.div_finite (hx : FiniteValue x) :
    Flt.div nan x res = Flt.round (Flt.sign x) (Flt.quotient x res) (Flt.exp x - Flt.exp res - 121) := by
  have hres : value res ≠ 0 := by
    rw [ne_eq, Flt.value_eq_zero_iff, Flt.isZero_of_key_pos h.key_pos]
    exact Bool.false_ne_true
  rw [Flt.div_eq_round nan hx ((Flt.isFinite_iff res).mp h.finite) hres, Flt.sign_of_key_pos h.key_pos, Bool.bne_false]

theorem ResolutionOk.isZero_div (hx : Flt.isZero x = true) : Flt.isZero (Flt.div nan x res) = true := by
  have hfin : FiniteValue x := (Flt.finiteValue_iff x).mpr (by rw [(Flt.isZero_iff x).mp hx]; decide)
  have hquotient : Flt.quotient x res = 0 := by simp [Flt.quotient, Flt.mant_of_isZero hx]
  rw [h.div_finite nan hfin, hquotient, Flt.round, if_pos rfl, Flt.isZero_iff, Flt.magBits_zero]

theorem ResolutionOk.div_keeps_sign (hx : Flt.isNaN x = false) :
    Flt.isNaN (Flt.div nan x res) = false ∧ Flt.sign (Flt.div nan x res) = Flt.sign x := by
  rcases Flt.classify x with hc | hc | hc
  · simp [hx] at hc
  · rw [Flt.div_inf_finite nan hc ((Flt.isFinite_iff res).mp h.finite), Flt.sign_of_key_pos h.key_pos, Bool.bne_false,
      Flt.sign_inf]
    exact ⟨Flt.not_isNaN_of_isInf ((Flt.isInf_iff _).mpr (Flt.magBits_inf _)), rfl⟩
  · rw [h.div_finite nan ((Flt.isFinite_iff x).mp hc), Flt.sign_round]
    exact ⟨Flt.isNaN_round _ _ _, rfl⟩

/-- The raw integer of a value that is not negative is not negative; −0.0 gives 0 (rule R155). -/
theorem ResolutionOk.rawValue_nonneg (hx : Flt.isNaN x = false) (hneg : Flt.lt x 0 = false) :
    0 ≤ clampI32 (Flt.roundHalfAway (Flt.div nan x res)) := by
  refine clampI32_nonneg ?_
  cases hsign : Flt.sign x with
  | false =>
    obtain ⟨hnan, hkeep⟩ := h.div_keeps_sign nan hx
    exact Flt.roundHalfAway_of_sign_eq_false hnan (hkeep.trans hsign)
  | true =>
    have hzero := (Flt.isZero_iff x).mpr (Flt.magBits_eq_zero_of_not_lt hx hneg hsign)
    exact .inr ⟨0, Flt.roundHalfAway_of_isZero (h.isZero_div nan hzero)⟩

end

end Sys2Proof.Machine
end

section
/-! PROOFS. The BNR codec (rules R150, R154, R164): the value field is read and written in two's complement. -/

namespace Sys2Proof.Spec

open Sys2Proof.Machine Sys2Proof.Safety

/-! ### Decoding -/

theorem sext_field_eq_bnrValue {n : ℕ} (hn : n ≤ 28) (w : Word) :
    sext (n + 1) (field w (28 - n) (n + 1)).toNat = bnrValue n w := by
  have hwidth : 28 + 1 - (28 - n) = n + 1 := by omega
  simp only [sext, bnrValue, bits, field_toNat, hwidth, Nat.add_sub_cancel]
  rw [← ite_not]
  simp only [not_le]

/-- Settles O23: each field of the decoder is the numeric one. -/
theorem bnrDecodingFollowsTheLayout : Obligations.BnrDecodingFollowsTheLayout := by
  unfold Obligations.BnrDecodingFollowsTheLayout
  intro nan nan' c w hlegal htype
  obtain ⟨-, hn, -, hres⟩ := legalEntry_bnr hlegal htype
  simp only [decodeWord, htype, decodeBnr, sext_field_eq_bnrValue (hn.trans (by decide)) w, hres.mul_ofInt nan nan',
    engInt, discreteBits_eq, wordSsm_eq, wordSdi_eq]

/-! ### Encoding -/

/-- From the lowest bit of the value field on, M(n) is bits 28 and below (rule R105). -/
theorem getLsbD_bnrMask {n i : ℕ} (hn : n ≤ 20) (hlow : 28 - n ≤ i) :
    (bnrMask n).getLsbD i = decide (i ≤ 28) := by
  have hmask : bnrMask n = mask (max 19 (n + 1)) <<< (29 - max 19 (n + 1)) := by
    unfold bnrMask
    interval_cases n <;> rfl
  rw [hmask, BitVec.getLsbD_shiftLeft, getLsbD_mask]
  by_cases hi : i ≤ 28
  · have h1 : i < 32 := by omega
    have h2 : ¬ i < 29 - max 19 (n + 1) := by omega
    have h3 : i - (29 - max 19 (n + 1)) < 32 := by omega
    have h4 : i - (29 - max 19 (n + 1)) < max 19 (n + 1) := by omega
    simp [hi, h1, h2, h3, h4]
  · have h4 : ¬ i - (29 - max 19 (n + 1)) < max 19 (n + 1) := by omega
    simp [hi, h4]

theorem toNat_toU32_mod {k : ℕ} (hk : k ≤ 32) (v : ℤ) : (toU32 v).toNat % 2 ^ k = (v % 2 ^ k).toNat := by
  have hdvd : (2 : ℤ) ^ k ∣ 2 ^ 32 := pow_dvd_pow 2 hk
  have hpos : (0 : ℤ) ≤ v % 2 ^ 32 := Int.emod_nonneg _ (by decide)
  have hmod : ((v % 2 ^ 32).toNat % 2 ^ k : ℕ) = ((v % 2 ^ 32 % 2 ^ k : ℤ)).toNat := by
    rw [Int.toNat_emod hpos (by positivity)]
    rfl
  rw [toU32, BitVec.toNat_ofInt, ← Int.emod_emod_of_dvd v hdvd, ← hmod]
  rfl

/-- The value field of the encoder: `v` in two's complement in w[28 : 28−n]. -/
theorem bnrData_eq_placed {n : ℕ} (hn : n ≤ 20) (v : ℤ) :
    (toU32 v <<< (28 - n)) &&& bnrMask n = placed (28 - n) (v % 2 ^ (n + 1)).toNat := by
  have hfield : (toU32 v <<< (28 - n)) &&& bnrMask n = (toU32 v &&& mask (n + 1)) <<< (28 - n) := by
    apply BitVec.eq_of_getLsbD_eq
    intro i hi
    simp only [BitVec.getLsbD_and, BitVec.getLsbD_shiftLeft, getLsbD_mask]
    by_cases hlow : i < 28 - n
    · simp [hlow]
    · have hiff : i ≤ 28 ↔ i - (28 - n) < n + 1 := by omega
      have hlt : i - (28 - n) < 32 := by omega
      simp [hlow, getLsbD_bnrMask hn (not_lt.mp hlow), hiff, hlt, Bool.and_assoc]
  rw [hfield, and_mask_shiftLeft, toNat_toU32_mod (by omega), placed]

/-- The clipped value (rule R154). -/
def bnrClip (n : ℕ) (v : ℤ) : ℤ := min (max v (-2 ^ n)) (2 ^ n - 1)

theorem bnrClip_bounds (n : ℕ) (v : ℤ) : -2 ^ n ≤ bnrClip n v ∧ bnrClip n v ≤ 2 ^ n - 1 := by
  have hpos : (0 : ℤ) < 2 ^ n := by positivity
  unfold bnrClip
  omega

theorem bnrWord_eq_dataWord (c : LabelConfig) (v : ℤ) (disc : Word) (ssm sdi : BitVec 2) :
    bnrWord c v disc ssm sdi =
      dataWord c (placed (28 - c.nsig.toNat) (v % 2 ^ (c.nsig.toNat + 1)).toNat) disc ssm
        (if c.nsig.toNat ≤ 18 then sdi else 0) := rfl

theorem encodeWord_of_bnr {c : LabelConfig} (htype : c.msgType = .bnr) (nan x : Flt) (disc : Word)
    (ssm sdi : BitVec 2) : encodeWord nan c x disc ssm sdi = encodeBnr nan c x disc ssm sdi := by rw [encodeWord, htype]

/-- What the encoder of a legal BNR entry gives for a value that is not NaN. -/
theorem encodeWord_bnr {c : LabelConfig} (hlegal : LegalEntry c) (htype : c.msgType = .bnr) {x : Flt}
    (hx : Flt.isNaN x = false) (nan : Flt) (disc : Word) (ssm sdi : BitVec 2) {v : ℤ}
    (hv : v = clampI32 (Flt.roundHalfAway (Flt.div nan x c.res))) :
    encodeWord nan c x disc ssm sdi =
      .ok ⟨bnrWord c (bnrClip c.nsig.toNat v) disc ssm sdi,
        decide (v < -2 ^ c.nsig.toNat) || decide (v > 2 ^ c.nsig.toNat - 1)⟩ := by
  obtain ⟨-, hn, -, -⟩ := legalEntry_bnr hlegal htype
  have hsdi : (if c.nsig.toNat ≤ 18 then sdiPart sdi else 0) = sdiPart (if c.nsig.toNat ≤ 18 then sdi else 0) := by
    split <;> rfl
  rw [encodeWord_of_bnr htype, encodeBnr, hx, if_neg Bool.false_ne_true]
  dsimp only
  rw [hsdi, dataWord_eq, bnrData_eq_placed hn, rawValue, ← hv, bnrWord_eq_dataWord, bnrClip]

/-- Settles O27: the three cases of the clip. -/
theorem bnrEncodingFollowsTheLayout : Obligations.BnrEncodingFollowsTheLayout := by
  unfold Obligations.BnrEncodingFollowsTheLayout
  intro nan nan' c x disc ssm sdi hlegal htype
  refine ⟨fun hx => by rw [encodeWord_of_bnr htype, encodeBnr, if_pos hx], fun v hx hv => ?_⟩
  obtain ⟨-, -, -, hres⟩ := legalEntry_bnr hlegal htype
  have hpos : (0 : ℤ) < 2 ^ c.nsig.toNat := by positivity
  rw [hres.div hx nan' nan] at hv
  rw [encodeWord_bnr hlegal htype hx nan disc ssm sdi hv]
  unfold bnrClip
  refine ⟨fun hlow => ?_, fun hhigh => ?_, fun hlow hhigh => ?_⟩
  · rw [max_eq_right hlow.le, min_eq_left (by omega), decide_eq_true hlow, Bool.true_or]
  · rw [max_eq_left (by omega), min_eq_right hhigh.le, decide_eq_true hhigh, Bool.or_true]
  · rw [max_eq_left hlow, min_eq_left hhigh, decide_eq_false (not_lt.mpr hlow), decide_eq_false (not_lt.mpr hhigh),
      Bool.false_or]

/-! ### Round trip -/

/-- Two's complement of n + 1 bits is read back. -/
theorem bnrValue_of_bits {n : ℕ} {w : Word} {v : ℤ} (hlow : -2 ^ n ≤ v) (hhigh : v ≤ 2 ^ n - 1)
    (h : bits w 28 (28 - n) = (v % 2 ^ (n + 1)).toNat) : bnrValue n w = v := by
  have hcast : ((2 ^ n : ℕ) : ℤ) = 2 ^ n := by push_cast; rfl
  have hpow : (2 : ℤ) ^ (n + 1) = 2 * 2 ^ n := pow_succ' 2 n
  simp only [bnrValue, h]
  rcases lt_or_ge v 0 with hv | hv
  · have hmod : v % 2 ^ (n + 1) = v + 2 ^ (n + 1) := by
      rw [← Int.add_emod_right, Int.emod_eq_of_lt (by omega) (by omega)]
    rw [hmod, if_neg (by omega)]
    omega
  · rw [Int.emod_eq_of_lt hv (by omega), if_pos (by omega)]
    omega

theorem toNat_emod_lt (v : ℤ) (k : ℕ) : (v % 2 ^ k).toNat < 2 ^ k := by
  have hlt : v % 2 ^ k < 2 ^ k := Int.emod_lt_of_pos v (by positivity)
  have hcast : ((2 ^ k : ℕ) : ℤ) = 2 ^ k := by push_cast; rfl
  have hpos : (0 : ℤ) ≤ v % 2 ^ k := Int.emod_nonneg _ (by positivity)
  omega

/-- The value field of a BNR word: nothing above bit 28, two's complement from there on, nothing below it. -/
theorem bnrField_bounds {n : ℕ} (hn : n ≤ 20) (v : ℤ) :
    (placed (28 - n) (v % 2 ^ (n + 1)).toNat).toNat < 2 ^ 29 ∧
      bits (placed (28 - n) (v % 2 ^ (n + 1)).toNat) 28 (28 - n) = (v % 2 ^ (n + 1)).toNat := by
  have hraw := toNat_emod_lt v (n + 1)
  have htop : 28 - n + (n + 1) = 29 := by omega
  have hwidth : 28 + 1 - (28 - n) = n + 1 := by omega
  exact ⟨htop ▸ placed_lt hraw, bits_placed_same (by rwa [hwidth]) (by decide) (by omega)⟩

/-- The value a decoder reads in a BNR word whose discrete bits do not overlap it (D44). -/
theorem bnrValue_bnrWord {c : LabelConfig} (hn : c.nsig.toNat ≤ 20)
    (hoverlap : c.ndisc = 0 ∨ 10 + c.ndisc.toNat ≤ 28 - c.nsig.toNat) {v : ℤ} (hlow : -2 ^ c.nsig.toNat ≤ v)
    (hhigh : v ≤ 2 ^ c.nsig.toNat - 1) (disc : Word) (ssm sdi : BitVec 2) :
    bnrValue c.nsig.toNat (bnrWord c v disc ssm sdi) = v := by
  have hsdi : 10 ≤ 28 - c.nsig.toNat ∨ 8 ≤ 28 - c.nsig.toNat ∧ (if c.nsig.toNat ≤ 18 then sdi else 0) = 0 := by
    split
    · exact .inl (by omega)
    · exact .inr ⟨by omega, rfl⟩
  refine bnrValue_of_bits hlow hhigh ?_
  obtain ⟨-, hfield⟩ := bnrField_bounds hn v
  rw [bnrWord_eq_dataWord, bits_dataWord_value le_rfl hoverlap hsdi, hfield]

/-- The discrete bits a decoder reads in such a word. -/
theorem discOf_bnrWord {c : LabelConfig} (hdisc : c.ndisc.toNat ≤ 19)
    (hoverlap : c.ndisc = 0 ∨ 10 + c.ndisc.toNat ≤ 28 - c.nsig.toNat) (v : ℤ) (disc : Word) (ssm sdi : BitVec 2) :
    discOf c (bnrWord c v disc ssm sdi) = disc.toNat % 2 ^ c.ndisc.toNat := by
  refine discOf_dataWord hdisc ?_
  rcases hoverlap with hzero | hoverlap
  · have hzero : c.ndisc.toNat = 0 := by rw [hzero]; rfl
    rw [discOf, hzero, pow_zero, Nat.mod_one]
  · rw [discOf_eq_bits]
    exact bits_placed_below (by omega)

/-- Settles O32: the encoder puts the clipped value's two's complement in the field from which the decoder reads it, and
no other part of the word reaches into that field. -/
theorem bnrWordsRoundTrip : Obligations.BnrWordsRoundTrip := by
  unfold Obligations.BnrWordsRoundTrip
  intro nan nan' c x disc ssm sdi v hlegal htype hx hoverlap hv
  obtain ⟨-, hn, hdisc, -⟩ := legalEntry_bnr hlegal htype
  obtain ⟨hlow, hhigh⟩ := bnrClip_bounds c.nsig.toNat v
  obtain ⟨hfield, -⟩ := bnrField_bounds hn (bnrClip c.nsig.toNat v)
  refine ⟨_, _, encodeWord_bnr hlegal htype hx nan disc ssm sdi hv,
    bnrDecodingFollowsTheLayout nan' nan' c _ hlegal htype, ?_, ?_, ?_, ?_, fun hn18 => ?_, ?_, ?_⟩
  · dsimp only
    rw [bnrValue_bnrWord hn hoverlap hlow hhigh, bnrClip]
  · simp
  · simp only [discOf_bnrWord hdisc hoverlap]
  · simp only [bnrWord_eq_dataWord, bits_dataWord_ssm hdisc hfield, BitVec.ofNat_toNat, BitVec.setWidth_eq]
  · have hdata : bits (placed (28 - c.nsig.toNat) (bnrClip c.nsig.toNat v % 2 ^ (c.nsig.toNat + 1)).toNat) 9 8 = 0 :=
      bits_placed_below (by omega)
    simp only [if_neg (not_lt.mpr hn18), bnrWord_eq_dataWord, bits_dataWord_sdi hdata, if_pos hn18,
      BitVec.ofNat_toNat, BitVec.setWidth_eq]
  · exact setWidth_dataWord (bits_placed_below (by omega))
  · exact getLsbD_dataWord_top hdisc hfield

end Sys2Proof.Spec
end

section
/-! PROOFS. The BCD codec (rules R151, R155, R164): the digits stand at their places, and each is read back alone. -/

namespace Sys2Proof.Spec

open Sys2Proof.Machine Sys2Proof.Safety

/-! ### Decoding -/

/-- The model's digit and the statements' digit are the same number. -/
theorem bcdDigit_eq_digit {n i : ℕ} (hn : n ≤ 5) (hi : i < n) (w : Word) : bcdDigit n w i = digit n w i := by
  have hpos : bcdPos n i = 30 - 4 * n + 4 * i := rfl
  rw [bcdDigit, field_toNat, digit]
  split
  · rw [show bcdPos n i = 26 by omega, bits]
  · rw [hpos, bits, show 33 - 4 * n + 4 * i + 1 - (30 - 4 * n + 4 * i) = 4 by omega]

theorem decimal_map_range (f : ℕ → ℕ) (n : ℕ) :
    decimal ((List.range n).map f) = ((List.range n).map fun i => f i * 10 ^ i).sum := by
  induction n generalizing f with
  | zero => rfl
  | succ n ih =>
    rw [List.range_succ_eq_map, List.map_cons, List.map_cons, List.map_map, List.map_map, decimal, ih, List.sum_cons,
      ← List.sum_map_mul_left]
    congr 2
    · simp
    · apply List.map_congr_left
      intro i _
      simp only [Function.comp_apply, Nat.succ_eq_add_one]
      ring

theorem map_bcdDigit {n : ℕ} (hn : n ≤ 5) (w : Word) :
    (List.range n).map (bcdDigit n w) = (List.range n).map (digit n w) :=
  List.map_congr_left fun _ hi => bcdDigit_eq_digit hn (List.mem_range.mp hi) w

/-- The digits and the discrete bits fit the data field (rule R132). -/
structure BcdFits (c : LabelConfig) : Prop where
  one_le_nsig : 1 ≤ c.nsig.toNat
  nsig_le : c.nsig.toNat ≤ 5
  width_le : 4 * c.nsig.toNat - 1 + c.ndisc.toNat ≤ 19

section
variable (nan : Flt) {c : LabelConfig} {w : Word}

theorem decodeBcd_of_not_fits (h : ¬ BcdFits c) : decodeBcd nan c w = .error .invalidMessage := by
  rw [decodeBcd, if_pos]
  simp only [Bool.or_eq_true, decide_eq_true_eq]
  by_contra hwidth
  exact h ⟨by omega, by omega, by omega⟩

variable (h : BcdFits c)
include h

theorem decodeBcd_of_fits : decodeBcd nan c w =
    if ((List.range c.nsig.toNat).map (digit c.nsig.toNat w)).any (· > 9) then .error .invalidMessage
    else .ok
      { engf := Flt.mul nan (Flt.ofInt (digitSum c.nsig.toNat w)) c.res
        engi := clampI32 (Flt.roundHalfAway (Flt.mul nan (Flt.ofInt (digitSum c.nsig.toNat w)) c.res))
        disc := BitVec.ofNat 32 (discOf c w)
        ssm := BitVec.ofNat 2 (bits w 30 29)
        sdi := BitVec.ofNat 2 (bits w 9 8) } := by
  obtain ⟨hn1, hn, hwidth⟩ := h
  rw [decodeBcd, if_neg (by simp only [Bool.or_eq_true, decide_eq_true_eq]; omega)]
  simp only [map_bcdDigit hn, decimal_map_range, engInt, discreteBits_eq, wordSsm_eq, wordSdi_eq, digitSum]

theorem decodeBcd_of_badDigit (hbad : ∃ i, i < c.nsig.toNat ∧ 9 < digit c.nsig.toNat w i) :
    decodeBcd nan c w = .error .invalidMessage := by
  rw [decodeBcd_of_fits nan h, if_pos (by simpa using hbad)]

end

theorem bcdFits_of_legalEntry {c : LabelConfig} (h : LegalEntry c) (htype : c.msgType = .bcd) : BcdFits c := by
  obtain ⟨hn1, hn, hwidth, -⟩ := legalEntry_bcd h htype
  exact ⟨hn1, hn, hwidth⟩

theorem decodeWord_bcd {c : LabelConfig} (htype : c.msgType = .bcd) (nan : Flt) (w : Word) :
    decodeWord nan c w = decodeBcd nan c w := by rw [decodeWord, htype]

/-- Settles O24: the width of the entry, then its digits, then the number they make. -/
theorem bcdDecodingFollowsTheLayout : Obligations.BcdDecodingFollowsTheLayout := by
  unfold Obligations.BcdDecodingFollowsTheLayout
  intro nan nan' c w htype
  rw [decodeWord_bcd htype]
  refine ⟨fun hwidth => decodeBcd_of_not_fits nan fun ⟨_, _, _⟩ => by omega, fun hbad => ?_, fun hlegal hgood => ?_⟩
  · by_cases hfits : BcdFits c
    · exact decodeBcd_of_badDigit nan hfits hbad
    · exact decodeBcd_of_not_fits nan hfits
  · obtain ⟨-, -, -, hres⟩ := legalEntry_bcd hlegal htype
    rw [decodeBcd_of_fits nan (bcdFits_of_legalEntry hlegal htype), if_neg (by simpa using hgood),
      hres.mul_ofInt nan nan']

/-! ### The digits at their places -/

/-- The lowest `k` of `n` digits of `v`, each at its place. -/
def bcdPrefix (n v k : ℕ) : Word :=
  (List.range k).foldl (fun data i => data ||| placed (bcdPos n i) (v / 10 ^ i % 10)) 0

theorem bcdData_eq_bcdPrefix (n v : ℕ) : bcdData n v = bcdPrefix n v n := by
  have hplaced (p x : ℕ) : BitVec.ofNat 32 x <<< p = placed p x := by
    apply BitVec.eq_of_toNat_eq
    simp [placed, Nat.shiftLeft_eq]
  simp only [bcdData, bcdPrefix, hplaced]

theorem bcdPrefix_succ (n v k : ℕ) :
    bcdPrefix n v (k + 1) = bcdPrefix n v k ||| placed (bcdPos n k) (v / 10 ^ k % 10) := by
  simp [bcdPrefix, List.range_succ]

theorem bits_bcdPrefix_below {n hi : ℕ} (h : hi < 30 - 4 * n) (v k lo : ℕ) : bits (bcdPrefix n v k) hi lo = 0 := by
  induction k with
  | zero => exact bits_eq_zero_of_toNat_lt (Nat.two_pow_pos lo)
  | succ k ih => rw [bcdPrefix_succ, bits_or, ih, bits_placed_below (by unfold bcdPos; omega), Nat.or_zero]

/-- The digits are below one another, so they add up. -/
theorem bcdPrefix_toNat {n k : ℕ} (hn : n ≤ 5) (hk : k ≤ n) (v : ℕ) :
    (bcdPrefix n v k).toNat = ((List.range k).map fun i => v / 10 ^ i % 10 * 2 ^ bcdPos n i).sum ∧
      (bcdPrefix n v k).toNat < 2 ^ bcdPos n k := by
  induction k with
  | zero => exact ⟨rfl, Nat.two_pow_pos _⟩
  | succ k ih =>
    obtain ⟨hsum, hlt⟩ := ih (by omega)
    have hdigit : v / 10 ^ k % 10 < 10 := Nat.mod_lt _ (by decide)
    have hpos : bcdPos n (k + 1) = bcdPos n k + 4 := by unfold bcdPos; omega
    have hadd := or_placed_toNat (k := 4) hlt (x := v / 10 ^ k % 10) (by omega) (by unfold bcdPos; omega)
    rw [bcdPrefix_succ, hadd, hpos]
    refine ⟨by simp [List.range_succ, hsum], ?_⟩
    have hle := Nat.mul_le_mul_right (2 ^ bcdPos n k) (Nat.le_of_lt_succ hdigit)
    rw [pow_add]
    omega

/-- A field that starts with a digit's place and holds no more than the digit reads it. -/
theorem bits_bcdPrefix_digit {n k i hi : ℕ} (hn : n ≤ 5) (hk : k ≤ n) (hik : i < k) (v : ℕ)
    (hlow : bcdPos n i ≤ hi) (hhi : hi < bcdPos n i + 4) (hdigit : v / 10 ^ i % 10 < 2 ^ (hi + 1 - bcdPos n i)) :
    bits (bcdPrefix n v k) hi (bcdPos n i) = v / 10 ^ i % 10 := by
  have hpos (j : ℕ) : bcdPos n j = 30 - 4 * n + 4 * j := rfl
  induction k with
  | zero => omega
  | succ k ih =>
    rw [bcdPrefix_succ, bits_or]
    rcases Nat.lt_or_eq_of_le (Nat.le_of_lt_succ hik) with hik | rfl
    · rw [ih (by omega) hik, bits_placed_below (by rw [hpos] at *; omega), Nat.or_zero]
    · obtain ⟨-, hlt⟩ := bcdPrefix_toNat hn (by omega : i ≤ n) v
      rw [bits_eq_zero_of_toNat_lt hlt, bits_placed_same hdigit (by have := hpos i; omega) hlow, Nat.zero_or]

/-- The most significant digit has three bits, so a value of n digits that starts with at most 7 ends at bit 28. -/
theorem bcdData_lt {n v : ℕ} (hn1 : 1 ≤ n) (hn : n ≤ 5) (hv : v < 8 * 10 ^ (n - 1)) :
    (bcdData n v).toNat < 2 ^ 29 := by
  obtain ⟨m, rfl⟩ : ∃ m, n = m + 1 := ⟨n - 1, by omega⟩
  have hpos : bcdPos (m + 1) m = 26 := by unfold bcdPos; omega
  have htop : v / 10 ^ m % 10 < 8 := (Nat.mod_le _ _).trans_lt (Nat.div_lt_of_lt_mul (by rwa [mul_comm]))
  obtain ⟨-, hlt⟩ := bcdPrefix_toNat hn m.le_succ v
  rw [hpos] at hlt
  rw [bcdData_eq_bcdPrefix, bcdPrefix_succ, hpos, or_placed_toNat hlt (k := 3) htop (by decide)]
  omega

theorem bits_bcdData_below {n hi : ℕ} (h : hi < 30 - 4 * n) (v lo : ℕ) : bits (bcdData n v) hi lo = 0 := by
  rw [bcdData_eq_bcdPrefix, bits_bcdPrefix_below h]

theorem bcdData_eq_bcdField {n : ℕ} (hn : n ≤ 5) (v : ℕ) : BitVec.ofNat 32 (bcdField n v) = bcdData n v := by
  obtain ⟨hsum, -⟩ := bcdPrefix_toNat hn le_rfl v
  have hfield : bcdField n v = (bcdPrefix n v n).toNat := hsum.symm
  rw [bcdData_eq_bcdPrefix, hfield, BitVec.ofNat_toNat, BitVec.setWidth_eq]

/-- The data mask keeps what lies in bits 28 to 10 (rule R105). -/
theorem and_dataMask {w : Word} (hlow : bits w 9 0 = 0) (hhigh : w.toNat < 2 ^ 29) : w &&& 0x1FFFFC00 = w := by
  have hmask : (0x1FFFFC00 : Word) = mask 19 <<< 10 := rfl
  rw [hmask, ← extractLsb'_in_place, setWidth_shiftLeft_eq_placed _ (by decide)]
  apply BitVec.eq_of_toNat_eq
  rw [placed_toNat (w.extractLsb' 10 19).isLt (by decide), BitVec.extractLsb'_toNat, Nat.shiftRight_eq_div_pow]
  unfold bits at hlow
  omega

theorem digit_bcdData {n v i : ℕ} (hn : n ≤ 5) (hi : i < n) (hv : v < 8 * 10 ^ (n - 1)) :
    digit n (bcdData n v) i = v / 10 ^ i % 10 := by
  have hpos : bcdPos n i = 30 - 4 * n + 4 * i := rfl
  have hdigit : v / 10 ^ i % 10 < 10 := Nat.mod_lt _ (by decide)
  rw [bcdData_eq_bcdPrefix, digit]
  split
  case isTrue htop =>
    obtain rfl : n = i + 1 := htop.symm
    have hlt : v / 10 ^ i % 10 < 8 := (Nat.mod_le _ _).trans_lt (Nat.div_lt_of_lt_mul (by rwa [mul_comm]))
    have hplace : bcdPos (i + 1) i = 26 := by omega
    have hread := bits_bcdPrefix_digit (hi := 28) hn le_rfl hi v (by omega) (by omega) (by rwa [hplace])
    rwa [hplace] at hread
  case isFalse =>
    have hwidth : 33 - 4 * n + 4 * i + 1 - bcdPos n i = 4 := by omega
    exact bits_bcdPrefix_digit hn le_rfl hi v (by omega) (by omega) (by rw [hwidth]; omega)

/-- The digits of a number make it up again. -/
theorem sum_digits (v n : ℕ) : ((List.range n).map fun i => v / 10 ^ i % 10 * 10 ^ i).sum = v % 10 ^ n := by
  induction n with
  | zero => simp [Nat.mod_one]
  | succ n ih =>
    rw [List.range_succ, List.map_append, List.sum_append, ih, List.map_singleton, List.sum_singleton, mul_comm,
      Nat.mod_pow_succ]

/-! ### Encoding -/

/-- The largest value of n digits with a 3-bit most significant one (rule R155). -/
def bcdMax (n : ℕ) : ℤ := 8 * 10 ^ (n - 1) - 1

theorem toNat_bcdMax (n : ℕ) : (bcdMax n).toNat = 8 * 10 ^ (n - 1) - 1 := by
  have hcast : ((10 ^ (n - 1) : ℕ) : ℤ) = 10 ^ (n - 1) := by push_cast; rfl
  unfold bcdMax
  omega

theorem bcdClip_bounds (n : ℕ) {v : ℤ} (hv : 0 ≤ v) :
    0 ≤ min v (bcdMax n) ∧ (min v (bcdMax n)).toNat < 8 * 10 ^ (n - 1) := by
  have hpos : (0 : ℤ) < 10 ^ (n - 1) := by positivity
  have hcast : ((10 ^ (n - 1) : ℕ) : ℤ) = 10 ^ (n - 1) := by push_cast; rfl
  unfold bcdMax
  omega

theorem bcdWord_eq_dataWord {c : LabelConfig} (hn : c.nsig.toNat ≤ 5) (v : ℕ) (disc : Word) (ssm sdi : BitVec 2) :
    bcdWord c v disc ssm sdi = dataWord c (bcdData c.nsig.toNat v) disc ssm sdi := by
  rw [bcdWord, bcdData_eq_bcdField hn, dataWord]

theorem encodeWord_of_bcd {c : LabelConfig} (htype : c.msgType = .bcd) (nan x : Flt) (disc : Word)
    (ssm sdi : BitVec 2) : encodeWord nan c x disc ssm sdi = encodeBcd nan c x disc ssm sdi := by rw [encodeWord, htype]

/-- What the encoder of a legal BCD entry gives for a value that is not NaN and not negative. -/
theorem encodeWord_bcd {c : LabelConfig} (hlegal : LegalEntry c) (htype : c.msgType = .bcd) {x : Flt}
    (hx : Flt.isNaN x = false) (hneg : Flt.lt x 0 = false) (nan : Flt) (disc : Word) (ssm sdi : BitVec 2) {v : ℤ}
    (hv : v = clampI32 (Flt.roundHalfAway (Flt.div nan x c.res))) :
    0 ≤ v ∧ encodeWord nan c x disc ssm sdi =
      .ok ⟨bcdWord c (min v (bcdMax c.nsig.toNat)).toNat disc ssm sdi, decide (v > bcdMax c.nsig.toNat)⟩ := by
  obtain ⟨hn1, hn, -, hres⟩ := legalEntry_bcd hlegal htype
  have hnonneg : 0 ≤ v := hv ▸ hres.rawValue_nonneg nan hx hneg
  obtain ⟨-, hlt⟩ := bcdClip_bounds c.nsig.toNat hnonneg
  have hclip : (if v > bcdMax c.nsig.toNat then bcdMax c.nsig.toNat else v) = min v (bcdMax c.nsig.toNat) := by
    split <;> omega
  refine ⟨hnonneg, ?_⟩
  rw [encodeWord_of_bcd htype, encodeBcd, hx, hneg, if_neg (by decide)]
  dsimp only
  rw [rawValue, ← hv, ← bcdMax, hclip, and_dataMask (bits_bcdData_below (by omega) _ _) (bcdData_lt hn1 hn hlt),
    dataWord_eq, bcdWord_eq_dataWord hn]

/-- Settles O28: the two cases of the clip. -/
theorem bcdEncodingFollowsTheLayout : Obligations.BcdEncodingFollowsTheLayout := by
  unfold Obligations.BcdEncodingFollowsTheLayout
  intro nan nan' c x disc ssm sdi hlegal htype
  refine ⟨fun hx => ?_, fun v hx hneg hv => ?_⟩
  · rw [encodeWord_of_bcd htype, encodeBcd, if_pos (by simpa using hx)]
  obtain ⟨-, -, -, hres⟩ := legalEntry_bcd hlegal htype
  rw [hres.div hx nan' nan] at hv
  obtain ⟨hnonneg, hencode⟩ := encodeWord_bcd hlegal htype hx hneg nan disc ssm sdi hv
  rw [hencode]
  refine ⟨hnonneg, fun (hhigh : bcdMax c.nsig.toNat < v) => ?_, fun (hle : v ≤ bcdMax c.nsig.toNat) => ?_⟩
  · rw [min_eq_right hhigh.le, decide_eq_true hhigh, toNat_bcdMax]
  · rw [min_eq_left hle, decide_eq_false (not_lt.mpr hle)]

/-! ### Round trip -/

section
variable {c : LabelConfig} (hfits : BcdFits c)
include hfits

theorem digit_bcdWord {i v : ℕ} (hi : i < c.nsig.toNat) (hv : v < 8 * 10 ^ (c.nsig.toNat - 1)) (disc : Word)
    (ssm sdi : BitVec 2) : digit c.nsig.toNat (bcdWord c v disc ssm sdi) i = v / 10 ^ i % 10 := by
  obtain ⟨-, hn, hwidth⟩ := hfits
  rw [bcdWord_eq_dataWord hn, ← digit_bcdData hn hi hv, digit, digit]
  split
  · exact bits_dataWord_value le_rfl (.inr (by omega)) (.inl (by decide))
  · exact bits_dataWord_value (by omega) (.inr (by omega)) (.inl (by omega))

theorem digitSum_bcdWord {v : ℕ} (hv : v < 8 * 10 ^ (c.nsig.toNat - 1)) (disc : Word) (ssm sdi : BitVec 2) :
    digitSum c.nsig.toNat (bcdWord c v disc ssm sdi) = v := by
  have hdigits : digitSum c.nsig.toNat (bcdWord c v disc ssm sdi) =
      ((List.range c.nsig.toNat).map fun i => v / 10 ^ i % 10 * 10 ^ i).sum :=
    congrArg List.sum (List.map_congr_left fun i hi => by
      rw [digit_bcdWord hfits (List.mem_range.mp hi) hv])
  have hpow : 10 ^ c.nsig.toNat = 10 ^ (c.nsig.toNat - 1) * 10 := by
    rw [← pow_succ, Nat.sub_add_cancel hfits.one_le_nsig]
  rw [hdigits, sum_digits, Nat.mod_eq_of_lt (by omega)]

end

/-- Settles O33: the encoder puts each digit of the clipped value at the place from which the decoder reads it. -/
theorem bcdWordsRoundTrip : Obligations.BcdWordsRoundTrip := by
  unfold Obligations.BcdWordsRoundTrip
  intro nan nan' c x disc ssm sdi v hlegal htype hx hneg hv
  obtain ⟨hn1, hn, hwidth, -⟩ := legalEntry_bcd hlegal htype
  have hfits := bcdFits_of_legalEntry hlegal htype
  obtain ⟨hnonneg, hencode⟩ := encodeWord_bcd hlegal htype hx hneg nan disc ssm sdi hv
  obtain ⟨hclip, hlt⟩ := bcdClip_bounds c.nsig.toNat hnonneg
  have hdigits (i : ℕ) (hi : i < c.nsig.toNat) :
      digit c.nsig.toNat (bcdWord c (min v (bcdMax c.nsig.toNat)).toNat disc ssm sdi) i ≤ 9 := by
    rw [digit_bcdWord hfits hi hlt]
    exact Nat.le_of_lt_succ (Nat.mod_lt _ (by decide))
  obtain ⟨-, -, hdecode⟩ := bcdDecodingFollowsTheLayout nan' nan' c
    (bcdWord c (min v (bcdMax c.nsig.toNat)).toNat disc ssm sdi) htype
  have hdata := bcdData_lt hn1 hn hlt
  have hdisc : c.ndisc.toNat ≤ 19 := by omega
  refine ⟨_, _, hencode, hdecode hlegal hdigits, ?_, ?_, ?_, ?_, ?_, ?_, ?_⟩
  · dsimp only
    rw [digitSum_bcdWord hfits hlt, Int.toNat_of_nonneg hclip, bcdMax]
  · simp [bcdMax]
  all_goals rw [bcdWord_eq_dataWord hn]
  · rw [discOf_dataWord hdisc ((discOf_eq_bits c _).trans (bits_bcdData_below (by omega) _ _))]
  · rw [bits_dataWord_ssm hdisc hdata, BitVec.ofNat_toNat, BitVec.setWidth_eq]
  · rw [bits_dataWord_sdi (bits_bcdData_below (by omega) _ _), BitVec.ofNat_toNat, BitVec.setWidth_eq]
  · exact setWidth_dataWord (bits_bcdData_below (by omega) _ _)
  · exact getLsbD_dataWord_top hdisc hdata

end Sys2Proof.Spec
end

section
/-! PROOFS. The Discrete codec (rules R152, R156): no engineering value, and the bits at the top of the data field. -/

namespace Sys2Proof.Spec

open Sys2Proof.Machine Sys2Proof.Safety

theorem decodeWord_discrete {c : LabelConfig} (htype : c.msgType = .discrete) (nan : Flt) (w : Word) :
    decodeWord nan c w =
      .ok ⟨0, 0, BitVec.ofNat 32 (discOf c w), BitVec.ofNat 2 (bits w 30 29), BitVec.ofNat 2 (bits w 9 8)⟩ := by
  simp only [decodeWord, htype, decodeDiscrete, discreteBits_eq, wordSsm_eq, wordSdi_eq]

/-- Settles O25: each field of the decoder is the numeric one. -/
theorem discreteDecodingFollowsTheLayout : Obligations.DiscreteDecodingFollowsTheLayout := by
  unfold Obligations.DiscreteDecodingFollowsTheLayout
  exact fun nan c w htype => decodeWord_discrete htype nan w

/-- The word of a Discrete entry: its bits at the top of the data field, and what every encoder ORs in. -/
def discreteWord (c : LabelConfig) (disc : Word) (ssm sdi : BitVec 2) : Word :=
  placed (29 - c.ndisc.toNat) (disc.toNat % 2 ^ c.ndisc.toNat) ||| encCommon c ssm sdi

theorem encodeWord_discrete {c : LabelConfig} (htype : c.msgType = .discrete) (nan x : Flt) (disc : Word)
    (ssm sdi : BitVec 2) : encodeWord nan c x disc ssm sdi = .ok ⟨discreteWord c disc ssm sdi, false⟩ := by
  simp only [encodeWord, htype, encodeDiscrete, and_mask_shiftLeft, discreteWord, placed, encCommon_eq, BitVec.or_assoc]

section
variable {c : LabelConfig} (hdisc : c.ndisc.toNat ≤ 19) (disc : Word) (ssm sdi : BitVec 2)
include hdisc

theorem bits_discreteWord_data (hpos : 1 ≤ c.ndisc.toNat) :
    bits (discreteWord c disc ssm sdi) 28 (29 - c.ndisc.toNat) = disc.toNat % 2 ^ c.ndisc.toNat := by
  have hwidth : 28 + 1 - (29 - c.ndisc.toNat) = c.ndisc.toNat := by omega
  have hfield : disc.toNat % 2 ^ c.ndisc.toNat < 2 ^ c.ndisc.toNat := Nat.mod_lt _ (Nat.two_pow_pos _)
  rw [discreteWord, bits_or, bits_placed_same (by rwa [hwidth]) (by decide) (by omega),
    bits_encCommon_data c ssm sdi le_rfl (.inl (by omega)), Nat.or_zero]

theorem bits_discreteWord_ssm : bits (discreteWord c disc ssm sdi) 30 29 = ssm.toNat := by
  rw [discreteWord, bits_or, bits_encCommon_ssm, bits_placed_above (Nat.mod_lt _ (Nat.two_pow_pos _)) (by omega),
    Nat.zero_or]

theorem bits_discreteWord_sdi : bits (discreteWord c disc ssm sdi) 9 8 = sdi.toNat := by
  rw [discreteWord, bits_or, bits_encCommon_sdi, bits_placed_below (by omega), Nat.zero_or]

end

/-- Settles O29: nothing else of the word lies in the data field, and with 19 bits it is where the decoder reads. -/
theorem discreteEncodingIsLeftJustified : Obligations.DiscreteEncodingIsLeftJustified := by
  unfold Obligations.DiscreteEncodingIsLeftJustified
  intro nan c x disc ssm sdi hlegal htype
  obtain ⟨hpos, hdisc⟩ := legalEntry_discrete hlegal htype
  have hdata := bits_discreteWord_data hdisc disc ssm sdi hpos
  refine ⟨_, encodeWord_discrete htype nan x disc ssm sdi, rfl, hdata, fun h19 => ?_⟩
  have h19 : c.ndisc.toNat = 19 := by rw [h19]; rfl
  have hread : discOf c (discreteWord c disc ssm sdi) = disc.toNat % 2 ^ 19 := by
    rw [h19] at hdata
    rw [discOf_eq_bits, h19, hdata]
  rw [decodeWord_discrete htype, hread, bits_discreteWord_ssm hdisc, bits_discreteWord_sdi hdisc]
  simp only [BitVec.ofNat_toNat, BitVec.setWidth_eq]

end Sys2Proof.Spec
end

section
/-! PROOFS. The codec commands (rules R160-R162): each writes its outputs from what the codec answers, whatever NaN it
draws. -/

namespace Sys2Proof.Spec

open Sys2Proof.Machine

/-! ### Writes to the output registers -/

theorem outfSsm_eq (ssm sdi : BitVec 2) : outfSsm ssm sdi = flagsOf ssm.toNat sdi.toNat := by
  rw [outfSsm, outfWord_eq, flagsOf]
  simp

theorem writes_putDecoded (s : State) (d : Decoded) :
    Writes s ((s.putDecoded d).draw 1)
      (pair .outa d.engf ++
        [(.outi, BitVec.ofInt 32 d.engi), (.outd, d.disc), (.outf, flagsOf d.ssm.toNat d.sdi.toNat)]) := by
  refine ⟨fun p hp => ?_, fun r hr => ?_⟩
  · simp only [pair, List.cons_append, List.nil_append, List.mem_cons, List.not_mem_nil, or_false] at hp
    rw [readReg_draw]
    rcases hp with rfl | rfl | rfl | rfl | rfl
    · exact half_lo d.engf
    · exact half_hi d.engf
    · rfl
    · rfl
    · exact outfSsm_eq d.ssm d.sdi
  · rw [readReg_draw]
    cases r with
    | outa h => cases h <;> exact absurd hr (by simp [pair])
    | outi | outd | outf => exact absurd hr (by simp [pair])
    | _ => rfl

theorem writes_outw (s : State) (w : Word) : Writes s ({ s with outw := w }.draw 1) [(.outw, w)] := by
  refine writes_singleton rfl fun r hne => ?_
  cases r with
  | outw => exact absurd rfl hne
  | _ => rfl

theorem writes_outf (s : State) (w : Word) : Writes s { s with outf := w } [(.outf, w)] := by
  refine writes_singleton rfl fun r hne => ?_
  cases r with
  | outf => exact absurd rfl hne
  | _ => rfl

/-- Ending a command, with the code and the opcode as numbers (rules R34, R270). -/
theorem Writes.finish_res {s t : State} {ws : List (Reg × Word)} (h : Writes s t ws) (hws : .result ∉ ws.map Prod.fst)
    (code : ResultCode) (opc : BitVec 8) : Writes s (t.finish code opc) (ws ++ [res code.code.toNat opc.toNat]) := by
  rw [res, ← resultWord_eq]
  exact h.finish hws code opc

/-! ### The commands on an enabled entry -/

section
variable {s : State} {t : ℕ} {c : LabelConfig} (hlocked : s.locked = true) (hentry : EntryIs s t c)
include hlocked hentry

/-- In RUN mode a command on an enabled entry runs its body (rules R272, R273). -/
theorem withEntry_of_entryIs (i : Instr) (body : LabelConfig → State) : withEntry i t s body = body c :=
  withEntry_run i s t c body hlocked ((entry_eq_some s t c).mpr hentry)

theorem exec_dec_of_ok {d : Decoded} (h : decodeWord (s.nan 0) c s.opw = .ok d) :
    exec (.dec t) s = .next (((s.putDecoded d).draw 1).finish .success (Instr.dec t).opc) := by
  simp only [exec, execDec, withEntry_of_entryIs hlocked hentry, h]

theorem exec_dec_of_error {code : ResultCode} (h : decodeWord (s.nan 0) c s.opw = .error code) :
    exec (.dec t) s = .next (s.finish code (Instr.dec t).opc) := by
  simp only [exec, execDec, withEntry_of_entryIs hlocked hentry, h]

theorem exec_enc_of_ok {ssm sdi : BitVec 2} {w : Word} {clipped : Bool}
    (h : encodeWord (s.nan 0) c s.opa s.opd ssm sdi = .ok ⟨w, clipped⟩) :
    exec (.enc t ssm sdi) s =
      .next (({ s with outw := w }.draw 1).finish (if clipped then .sentDataClipped else .success)
        (Instr.enc t ssm sdi).opc) := by
  simp only [exec, execEnc, withEntry_of_entryIs hlocked hentry, h]

theorem exec_enc_of_error {ssm sdi : BitVec 2} {code : ResultCode}
    (h : encodeWord (s.nan 0) c s.opa s.opd ssm sdi = .error code) :
    exec (.enc t ssm sdi) s = .next (s.finish code (Instr.enc t ssm sdi).opc) := by
  simp only [exec, execEnc, withEntry_of_entryIs hlocked hentry, h]

theorem exec_chkv :
    exec (.chkv t) s =
      .next ({ s with outf := outfSsm (checkBnrValidity s.opa c) 0 }.finish .success (Instr.chkv t).opc) := by
  simp only [exec, execChkv, withEntry_of_entryIs hlocked hentry]

end

/-- The validity check gives the SSM of rule R158. -/
theorem toNat_checkBnrValidity {x : Flt} {c : LabelConfig} {ssm : ℕ} (h : ValiditySsm x c ssm) :
    (checkBnrValidity x c).toNat = ssm := by
  rcases h with ⟨hfails, rfl⟩ | ⟨hpasses, rfl⟩ <;> rcases checkBnrValidity_cases x c with ⟨hx, hssm⟩ | ⟨hx, hssm⟩
  · rw [hssm]; rfl
  · exact absurd hfails hx
  · exact absurd hx hpasses
  · rw [hssm]; rfl

/-- Settles O26: the outputs, or only RESULT, by what the decoder answers. -/
theorem decWritesTheDecodedFields : Obligations.DecWritesTheDecodedFields := by
  unfold Obligations.DecWritesTheDecodedFields
  refine fun s t c hlocked hentry => ⟨fun d hd => ?_, fun herror => ?_⟩
  · exact ⟨_, exec_dec_of_ok hlocked hentry (hd _),
      (writes_putDecoded s d).finish_res (by simp [pair]) .success (Instr.dec t).opc, rfl, rfl, rfl, rfl, rfl, rfl, rfl⟩
  · exact ⟨_, exec_dec_of_error hlocked hentry (herror _),
      (writes_refl s).finish_res (by simp) .invalidMessage (Instr.dec t).opc, rfl, rfl, rfl, rfl, rfl, rfl, rfl⟩

/-- Settles O30: the word with its code, or only RESULT, by what the encoder answers. -/
theorem encWritesTheEncodedWord : Obligations.EncWritesTheEncodedWord := by
  unfold Obligations.EncWritesTheEncodedWord
  refine fun s t c ssm sdi hlocked hentry => ⟨fun w clipped hw => ?_, fun herror => ?_⟩
  · refine ⟨_, exec_enc_of_ok hlocked hentry (hw _), ?_, rfl, rfl, rfl, rfl, rfl, rfl, rfl⟩
    cases clipped with
    | false => exact (writes_outw s w).finish_res (by simp) .success (Instr.enc t ssm sdi).opc
    | true => exact (writes_outw s w).finish_res (by simp) .sentDataClipped (Instr.enc t ssm sdi).opc
  · exact ⟨_, exec_enc_of_error hlocked hentry (herror _),
      (writes_refl s).finish_res (by simp) .invalidMsgData (Instr.enc t ssm sdi).opc, rfl, rfl, rfl, rfl, rfl, rfl, rfl⟩

/-- Settles O31: the flags word holds the SSM that the check gives, and no SDI. -/
theorem chkvReportsValidity : Obligations.ChkvReportsValidity := by
  unfold Obligations.ChkvReportsValidity
  intro s t c ssm hlocked hentry hssm
  have hflags : outfSsm (checkBnrValidity s.opa c) 0 = BitVec.ofNat 32 ssm := by
    rw [outfSsm_eq, toNat_checkBnrValidity hssm]
    rfl
  refine ⟨_, exec_chkv hlocked hentry, ?_, rfl, rfl, rfl, rfl, rfl, rfl, rfl⟩
  rw [hflags]
  exact (writes_outf s _).finish_res (by simp) .success (Instr.chkv t).opc

end Sys2Proof.Spec
end

section
/-! PROOFS. The receive commands but DRAIN (rules R190, R191, R200, R210, R220, R225): what a good receipt writes, and
the outputs of TICK, GETD and GETW. -/

namespace Sys2Proof.Spec

open Sys2Proof.Machine

/-! ### Lookup, time and bits as the statements write them -/

theorem wordLabel_eq (w : Word) : wordLabel w = w.setWidth 8 := (BitVec.setWidth_eq_extractLsb' (by decide)).symm

theorem lookup_eq_some_iff_finds {G : Group} {label : BitVec 8} {j : Fin Config.tableSize} :
    G.lookup label = some j ↔ Finds G label j := lookup_eq_some G label j

theorem lookup_eq_none_iff_absent {G : Group} {label : BitVec 8} : G.lookup label = none ↔ Absent G label :=
  lookup_eq_none G label

/-- A lookup depends on the configuration of the group only (rule R190). -/
theorem Finds.of_config_eq {G G' : Group} {label : BitVec 8} {j : Fin Config.tableSize} (h : Finds G label j)
    (hconfig : G'.config = G.config) : Finds G' label j := by
  simp only [Group.config, Prod.mk.injEq] at hconfig
  obtain ⟨hnum, -, hentries⟩ := hconfig
  simpa only [Finds, hnum, hentries] using h

theorem elapsed_toNat (now t : Word) : (elapsed now t).toNat = elapsedMs now t := by
  rw [elapsed, elapsedMs, BitVec.toNat_sub, Nat.add_comm]

/-- Elapsed time counts across a wrap of the clock (rule R15). -/
theorem elapsedMs_add (t : Word) {k : ℕ} (hk : k < 2 ^ 32) : elapsedMs (t + BitVec.ofNat 32 k) t = k := by
  rw [← elapsed_toNat, elapsed, BitVec.add_comm, BitVec.add_sub_cancel, BitVec.toNat_ofNat, Nat.mod_eq_of_lt hk]

theorem IsBit.eq_toNat {p : Prop} {k : ℕ} (h : IsBit p k) {b : Bool} (hb : b = true ↔ p) : k = b.toNat := by
  rcases h with ⟨hp, rfl⟩ | ⟨hp, rfl⟩
  · rw [hb.mpr hp]; rfl
  · rw [Bool.eq_false_iff.mpr (mt hb.mp hp)]; rfl

theorem isFresh_iff (c : LabelConfig) (x : Slot) (t : Word) :
    isFresh c x t = true ↔ elapsedMs t x.lastGood ≤ c.maxTx.toNat := by
  rw [isFresh, decide_eq_true_iff, BitVec.le_def, elapsed_toNat]

theorem receive_nb_iff (x : Slot) (c : LabelConfig) (w t : Word) (d : Decoded) :
    (x.receive c w t d).nb = true ↔ c.minTx.toNat ≤ elapsedMs t x.lastGood := by
  rw [Slot.receive, decide_eq_true_iff, BitVec.le_def, elapsed_toNat]

/-- The bit reversal of an octal label is its wire label (rule R14). -/
theorem rev8_eq {octal wire : BitVec 8} (h : ∀ k, k < 8 → wire.getLsbD k = octal.getLsbD (7 - k)) :
    rev8 octal = wire := by
  apply BitVec.eq_of_getLsbD_eq
  intro k hk
  rw [h k hk]
  simp only [rev8, BitVec.getLsbD_append, BitVec.getLsbD_ofBool]
  interval_cases k <;> rfl

/-! ### Writes one after the other -/

/-- What one update writes and what the next does, where the next leaves the first alone. -/
theorem Writes.append {s t u : State} {ws ws' : List (Reg × Word)} (h : Writes s t ws) (h' : Writes t u ws')
    (hdisjoint : ∀ p ∈ ws, p.1 ∉ ws'.map Prod.fst) : Writes s u (ws ++ ws') := by
  obtain ⟨hwritten, hkept⟩ := h
  obtain ⟨hwritten', hkept'⟩ := h'
  refine ⟨fun p hp => ?_, fun r hr => ?_⟩
  · rcases List.mem_append.mp hp with hp | hp
    · rw [hkept' _ (hdisjoint p hp), hwritten p hp]
    · exact hwritten' p hp
  · rw [List.map_append, List.mem_append, not_or] at hr
    rw [hkept' r hr.2, hkept r hr.1]

/-- Updates that no register shows may come before and after. -/
theorem Writes.congr {s s' t t' : State} {ws : List (Reg × Word)} (h : Writes s t ws)
    (hs : ∀ r, readReg s r = readReg s' r) (ht : ∀ r, readReg t' r = readReg t r) : Writes s' t' ws := by
  obtain ⟨hwritten, hkept⟩ := h
  exact ⟨fun p hp => (ht _).trans (hwritten p hp), fun r hr => ((ht r).trans (hkept r hr)).trans (hs r)⟩

/-! ### A good receipt -/

theorem getElem?_groups_setGroup {s : State} {g : ℕ} {G : Group} (hG : s.groups[g]? = some G) (G' : Group) :
    (s.setGroup g G').groups[g]? = some G' :=
  List.getElem?_set_self (List.getElem?_eq_some_iff.mp hG).1

/-- Group g after a good receipt on entry j, read in slot j (rule R191). -/
theorem readReg_slot_receive {s : State} {g : ℕ} {G : Group} (hG : s.groups[g]? = some G) (j : Fin Config.tableSize)
    (w t : Word) (d : Decoded) (x : SlotReg) :
    readReg (s.setGroup g (G.receive j w t d)) (.slot g j x) =
      readSlot (G.slots[j].receive G.entries[j] w t d) x := by
  refine (readAt_set_self hG _ _).trans ?_
  simp only [Group.receive, getElem_set_fin, if_true]

/-- A good receipt on entry j of group g changes no slot but (g, j) (rule R192). -/
theorem readReg_slot_receive_ne {s : State} {g : ℕ} {G : Group} (hG : s.groups[g]? = some G) (j : Fin Config.tableSize)
    (w t : Word) (d : Decoded) {k : ℕ} {i : Fin Config.tableSize} (hne : ¬ (k = g ∧ i = j)) (x : SlotReg) :
    readReg (s.setGroup g (G.receive j w t d)) (.slot k i x) = readReg s (.slot k i x) := by
  refine readAt_set_keep hG fun hk => ?_
  simp only [Group.receive, getElem_set_fin, if_neg fun hi => hne ⟨hk, hi⟩]

theorem slot_mem_receiptWrites (g : ℕ) (j : Fin Config.tableSize) (w t : Word) (d : Decoded) (nb : ℕ) (x : SlotReg) :
    .slot g j x ∈ (receiptWrites g j w t d nb).map Prod.fst := by
  cases x with
  | engf h => cases h <;> simp [receiptWrites, pair]
  | _ => simp [receiptWrites, pair]

/-- The registers a good receipt writes (rule R191). -/
theorem writes_receive {s : State} {g : ℕ} {G : Group} (hG : s.groups[g]? = some G) (j : Fin Config.tableSize)
    (w t : Word) (d : Decoded) {nb : ℕ} (hnb : IsBit (G.entries[j].minTx.toNat ≤ elapsedMs t G.slots[j].lastGood) nb) :
    Writes s ((s.setGroup g (G.receive j w t d)).draw 1) (receiptWrites g j w t d nb) := by
  obtain rfl := hnb.eq_toNat (receive_nb_iff G.slots[j] G.entries[j] w t d)
  have hslot := readReg_slot_receive hG j w t d
  refine ⟨fun p hp => ?_, fun r hr => ?_⟩
  · simp only [receiptWrites, pair, List.cons_append, List.nil_append, List.mem_cons, List.not_mem_nil, or_false] at hp
    rw [readReg_draw]
    rcases hp with rfl | rfl | rfl | rfl | rfl | rfl | rfl | rfl
    · exact (hslot _).trans (half_lo d.engf)
    · exact (hslot _).trans (half_hi d.engf)
    · exact hslot .raw
    · exact (hslot .flags).trans (slotFlagsWord_eq _)
    · exact hslot .engi
    · exact hslot .disc
    · exact hslot .lastGood
    · exact readAt_set_self hG _ _
  · rw [readReg_draw]
    cases r with
    | slot k i x =>
      refine readReg_slot_receive_ne hG j w t d ?_ x
      rintro ⟨rfl, rfl⟩
      exact hr (slot_mem_receiptWrites k i w t d _ x)
    | gcnt k => exact readAt_set_keep hG fun hk => absurd hr (by simp [receiptWrites, hk])
    | gnum k | gmaxbf k | gstat k | entry k i x => exact readAt_set_keep hG fun _ => rfl
    | params => simp [readReg, paramsWord]
    | _ => rfl

section
variable {s : State} {g : ℕ} {G : Group} {w : Word} {j : Fin Config.tableSize}

theorem processReceived_of_absent (h : Absent G (w.setWidth 8)) : processReceived g G w s = (.noMatchingLabel, s) := by
  rw [processReceived, wordLabel_eq, lookup_eq_none_iff_absent.mpr h]

theorem processReceived_of_error (hj : Finds G (w.setWidth 8) j) {code : ResultCode}
    (h : decodeWord (s.nan 0) G.entries[j] w = .error code) : processReceived g G w s = (code, s) := by
  simp only [processReceived, wordLabel_eq, lookup_eq_some_iff_finds.mpr hj, h]

theorem processReceived_of_ok (hj : Finds G (w.setWidth 8) j) {d : Decoded}
    (h : decodeWord (s.nan 0) G.entries[j] w = .ok d) :
    processReceived g G w s = (.success, (s.setGroup g (G.receive j w s.env.now d)).draw 1) := by
  simp only [processReceived, wordLabel_eq, lookup_eq_some_iff_finds.mpr hj, h]
  rfl

end

/-! ### The commands on a group that exists -/

section
variable {s : State} {g : ℕ} {G : Group} (hlocked : s.locked = true) (hG : s.groups[g]? = some G)
include hlocked hG

theorem exec_rxw :
    exec (.rxw g) s =
      .next ((processReceived g G s.opw s).2.finish (processReceived g G s.opw s).1 (Instr.rxw g).opc) := by
  simp only [exec, execRxw, withGroup_run _ s g G _ hlocked hG]

theorem exec_rxw_of_ok {j : Fin Config.tableSize} {d : Decoded} (hj : Finds G (s.opw.setWidth 8) j)
    (hd : decodeWord (s.nan 0) G.entries[j] s.opw = .ok d) :
    exec (.rxw g) s =
      .next (((s.setGroup g (G.receive j s.opw s.env.now d)).draw 1).finish .success (Instr.rxw g).opc) := by
  rw [exec_rxw hlocked hG, processReceived_of_ok hj hd]

theorem exec_tick :
    exec (.tick g) s =
      .next (State.finish
        { s.setGroup g { G with cnt := tickCount G.cnt, failed := decide (G.maxbf ≤ tickCount G.cnt) } with
          outi := tickCount G.cnt
          outf := outfBool (decide (G.maxbf ≤ tickCount G.cnt)) } .success (Instr.tick g).opc) := by
  simp only [exec, execTick, withGroup_run _ s g G _ hlocked hG]

theorem exec_getd_of_absent {label : BitVec 8} (h : Absent G label) :
    exec (.getd g label) s = .next (s.finish .noMatchingLabel (Instr.getd g label).opc) := by
  simp only [exec, execGetd, withGroup_run _ s g G _ hlocked hG, lookup_eq_none_iff_absent.mpr h]

theorem exec_getd_of_finds {label : BitVec 8} {j : Fin Config.tableSize} (h : Finds G label j) :
    exec (.getd g label) s =
      .next (State.finish
        { s with
          outw := G.slots[j].raw
          outa := G.slots[j].engf
          outi := G.slots[j].engi
          outd := G.slots[j].disc
          outt := G.slots[j].lastGood
          outf := outfWord G.slots[j].sm G.slots[j].sdi (isFresh G.entries[j] G.slots[j] s.env.now) G.slots[j].nb
            false } .success (Instr.getd g label).opc) := by
  simp only [exec, execGetd, withGroup_run _ s g G _ hlocked hG, lookup_eq_some_iff_finds.mpr h]
  rfl

theorem exec_getw_of_absent {octal : BitVec 8} (h : Absent G (rev8 octal)) :
    exec (.getw g octal) s =
      .next (State.finish { s with outw := 0, outf := 0 } .noMatchingLabel (Instr.getw g octal).opc) := by
  simp only [exec, execGetw, withGroup_run _ s g G _ hlocked hG, lookup_eq_none_iff_absent.mpr h]

theorem exec_getw_of_finds {octal : BitVec 8} {j : Fin Config.tableSize} (h : Finds G (rev8 octal) j) :
    exec (.getw g octal) s =
      .next (State.finish
        { s with
          outw := G.slots[j].raw
          outf := outfBool (isFresh G.entries[j] G.slots[j] s.env.now && G.slots[j].nb) } .success
        (Instr.getw g octal).opc) := by
  simp only [exec, execGetw, withGroup_run _ s g G _ hlocked hG, lookup_eq_some_iff_finds.mpr h]
  rfl

end

/-- Settles O38: RXW ends with the code of the receipt, which writes the slot or nothing. -/
theorem rxwRoutesTheWordToItsSlot : Obligations.RxwRoutesTheWordToItsSlot := by
  unfold Obligations.RxwRoutesTheWordToItsSlot
  refine fun s g G hlocked hG => ⟨fun habsent => ?_, fun j hj => ⟨fun herror => ?_, fun d nb hd hnb => ?_⟩⟩
  · refine ⟨_, exec_rxw hlocked hG, ?_⟩
    rw [processReceived_of_absent habsent]
    exact ⟨(writes_refl s).finish_res (by simp) .noMatchingLabel (Instr.rxw g).opc, rfl, rfl, rfl, rfl, rfl, rfl, rfl⟩
  · refine ⟨_, exec_rxw hlocked hG, ?_⟩
    rw [processReceived_of_error hj (herror _)]
    exact ⟨(writes_refl s).finish_res (by simp) .invalidMessage (Instr.rxw g).opc, rfl, rfl, rfl, rfl, rfl, rfl, rfl⟩
  · exact ⟨_, exec_rxw_of_ok hlocked hG hj (hd _),
      (writes_receive hG j s.opw s.env.now d hnb).finish_res (by simp [receiptWrites, pair]) .success (Instr.rxw g).opc,
      rfl, rfl, rfl, rfl, by simp, rfl, rfl⟩

/-! ### TICK -/

theorem tickCount_toNat (cnt : Word) : (tickCount cnt).toNat = min (cnt.toNat + 1) (2 ^ 32 - 1) := by
  have hlt := cnt.isLt
  unfold tickCount
  split
  · next h => rw [h, BitVec.toNat_allOnes]; rfl
  · next h =>
    have hne : cnt.toNat ≠ 2 ^ 32 - 1 := fun hn => h (BitVec.eq_of_toNat_eq (by rw [hn, BitVec.toNat_allOnes]))
    rw [BitVec.toNat_add, show (1 : Word).toNat = 1 from rfl]
    omega

theorem outfBool_eq (b : Bool) : outfBool b = BitVec.ofNat 32 (64 * b.toNat) := by
  rw [outfBool, outfWord_eq]
  simp

/-- The registers TICK writes but for RESULT (rule R210). -/
theorem writes_tick {s : State} {g : ℕ} {G : Group} (hG : s.groups[g]? = some G) (cnt : Word) (failed : Bool) :
    Writes s { s.setGroup g { G with cnt := cnt, failed := failed } with outi := cnt, outf := outfBool failed }
      [(.gcnt g, cnt), (.gstat g, BitVec.ofNat 32 failed.toNat), (.outi, cnt),
        (.outf, BitVec.ofNat 32 (64 * failed.toNat))] := by
  refine ⟨fun p hp => ?_, fun r hr => ?_⟩
  · simp only [List.mem_cons, List.not_mem_nil, or_false] at hp
    rcases hp with rfl | rfl | rfl | rfl
    · exact readAt_set_self hG _ _
    · exact (readAt_set_self hG _ _).trans (bit_eq failed)
    · rfl
    · exact outfBool_eq failed
  · cases r with
    | gcnt k | gstat k => exact readAt_set_keep hG fun hk => absurd hr (by simp [hk])
    | gnum k | gmaxbf k | entry k i x | slot k i x => exact readAt_set_keep hG fun _ => rfl
    | outi | outf => exact absurd hr (by simp)
    | params => simp [readReg, paramsWord]
    | _ => rfl

theorem failed_iff (maxbf cnt : Word) : decide (maxbf ≤ tickCount cnt) = true ↔
    maxbf.toNat ≤ min (cnt.toNat + 1) (2 ^ 32 - 1) := by
  rw [decide_eq_true_iff, BitVec.le_def, tickCount_toNat]

/-- Settles O44: the count saturates, and the failure bit compares the count that is written. -/
theorem tickCountsAndReportsFailure : Obligations.TickCountsAndReportsFailure := by
  unfold Obligations.TickCountsAndReportsFailure
  rintro s g G cnt failed hlocked hG rfl hfailed
  obtain rfl := hfailed.eq_toNat (failed_iff G.maxbf G.cnt)
  rw [← tickCount_toNat, BitVec.ofNat_toNat, BitVec.setWidth_eq]
  exact ⟨_, exec_tick hlocked hG,
    (writes_tick hG (tickCount G.cnt) _).finish_res (by simp) .success (Instr.tick g).opc,
    rfl, rfl, rfl, rfl, by simp, rfl, rfl⟩

theorem repeatCmd_succ {i : Instr} {k : ℕ} {s t u : State} (ht : repeatCmd i k s = some t) (hu : exec i t = .next u) :
    repeatCmd i (k + 1) s = some u := by
  simp only [repeatCmd, ht, hu]

/-- The state after k TICKs of group g, which is `G` with a count of 0 (rule R228, law 5). -/
theorem repeatCmd_tick {s : State} {g : ℕ} {G : Group} (hlocked : s.locked = true) (hG : s.groups[g]? = some G)
    (hcnt : G.cnt = 0) (k : ℕ) :
    ∃ t G', repeatCmd (.tick g) k s = some t ∧ t.locked = true ∧ t.groups[g]? = some G' ∧ G'.maxbf = G.maxbf ∧
      G'.cnt.toNat = min k (2 ^ 32 - 1) ∧ (0 < k → (G'.failed = true ↔ G.maxbf.toNat ≤ min k (2 ^ 32 - 1))) := by
  induction k with
  | zero => exact ⟨s, G, rfl, hlocked, hG, rfl, by simp [hcnt], fun h => absurd h (by decide)⟩
  | succ k ih =>
    obtain ⟨t, G', ht, hlocked', hG', hmaxbf, hcnt', -⟩ := ih
    have hcount : min (G'.cnt.toNat + 1) (2 ^ 32 - 1) = min (k + 1) (2 ^ 32 - 1) := by omega
    refine ⟨_, _, repeatCmd_succ ht (exec_tick hlocked' hG'), hlocked', getElem?_groups_setGroup hG' _, hmaxbf, ?_,
      fun _ => ?_⟩
    · rw [tickCount_toNat, hcount]
    · rw [failed_iff, hcount, hmaxbf]

/-- Settles O45: an induction on the number of TICKs. -/
theorem ticksCountUpToFailure : Obligations.TicksCountUpToFailure := by
  unfold Obligations.TicksCountUpToFailure
  intro s g G k hlocked hG hcnt hk
  obtain ⟨t, G', ht, -, hG', -, hcnt', hfailed⟩ := repeatCmd_tick hlocked hG hcnt k
  exact ⟨t, G', ht, hG', hcnt', hfailed hk⟩

/-! ### GETD and GETW -/

/-- The output registers show the slot copied to them (rule R220). -/
theorem writes_outputs (s : State) (x : Slot) (fresh : Bool) :
    Writes s
      { s with
        outw := x.raw, outa := x.engf, outi := x.engi, outd := x.disc, outt := x.lastGood
        outf := outfWord x.sm x.sdi fresh x.nb false }
      (pair .outa x.engf ++
        [(.outw, x.raw), (.outi, x.engi), (.outd, x.disc), (.outt, x.lastGood),
          (.outf, BitVec.ofNat 32 (x.sm.toNat + 4 * x.sdi.toNat + 16 * fresh.toNat + 32 * num x.nb))]) := by
  refine ⟨fun p hp => ?_, fun r hr => ?_⟩
  · simp only [pair, List.cons_append, List.nil_append, List.mem_cons, List.not_mem_nil, or_false] at hp
    rcases hp with rfl | rfl | rfl | rfl | rfl | rfl | rfl
    · exact half_lo x.engf
    · exact half_hi x.engf
    · rfl
    · rfl
    · rfl
    · rfl
    · rw [num_eq_toNat]
      exact outfWord_eq x.sm x.sdi fresh x.nb false
  · cases r with
    | outa h => cases h <;> exact absurd hr (by simp [pair])
    | outw | outi | outd | outt | outf => exact absurd hr (by simp [pair])
    | _ => rfl

theorem writes_outw_outf (s : State) (w flags : Word) :
    Writes s { s with outw := w, outf := flags } [(.outw, w), (.outf, flags)] :=
  (writes_outw s w).append (writes_outf { s with outw := w } flags) (by simp)

/-- Settles O46: the slot that the lookup finds, copied with its freshness. -/
theorem getdReturnsTheSlotAndItsFreshness : Obligations.GetdReturnsTheSlotAndItsFreshness := by
  unfold Obligations.GetdReturnsTheSlotAndItsFreshness
  refine fun s g G label hlocked hG => ⟨fun habsent => ?_, fun j fresh hj hfresh => ?_⟩
  · exact ⟨_, exec_getd_of_absent hlocked hG habsent,
      (writes_refl s).finish_res (by simp) .noMatchingLabel (Instr.getd g label).opc, rfl, rfl, rfl, rfl, rfl, rfl, rfl⟩
  · obtain rfl := hfresh.eq_toNat (isFresh_iff G.entries[j] G.slots[j] s.env.now)
    exact ⟨_, exec_getd_of_finds hlocked hG hj,
      (writes_outputs s G.slots[j] _).finish_res (by simp [pair]) .success (Instr.getd g label).opc,
      rfl, rfl, rfl, rfl, rfl, rfl, rfl⟩

/-- Settles O47: the lookup is of the bit reversal, and BOOL is the conjunction of the two bits. -/
theorem getwReturnsTheWordAndItsUsability : Obligations.GetwReturnsTheWordAndItsUsability := by
  unfold Obligations.GetwReturnsTheWordAndItsUsability
  intro s g G octal wire hlocked hG hwire
  obtain rfl := rev8_eq hwire
  refine ⟨fun habsent => ?_, fun j usable hj husable => ?_⟩
  · exact ⟨_, exec_getw_of_absent hlocked hG habsent,
      (writes_outw_outf s 0 0).finish_res (by simp) .noMatchingLabel (Instr.getw g octal).opc,
      rfl, rfl, rfl, rfl, rfl, rfl, rfl⟩
  · obtain rfl := husable.eq_toNat (b := isFresh G.entries[j] G.slots[j] s.env.now && G.slots[j].nb)
      (by rw [Bool.and_eq_true, isFresh_iff])
    rw [← outfBool_eq]
    exact ⟨_, exec_getw_of_finds hlocked hG hj,
      (writes_outw_outf s _ _).finish_res (by simp) .success (Instr.getw g octal).opc,
      rfl, rfl, rfl, rfl, rfl, rfl, rfl⟩

/-! ### Time between receipts -/

theorem receive_slot (G : Group) (j : Fin Config.tableSize) (w t : Word) (d : Decoded) :
    (G.receive j w t d).slots[j] = G.slots[j].receive G.entries[j] w t d := by
  simp only [Group.receive, getElem_set_fin, if_true]

theorem getLsbD_outfWord_fresh (ssm sdi : BitVec 2) (fresh nb bool : Bool) :
    (outfWord ssm sdi fresh nb bool).getLsbD 4 = fresh := by
  revert ssm sdi fresh nb bool; decide

/-- RXW of a good word replaces its group and stays in RUN mode (rules R191, R200). -/
theorem exists_rxw_receive {s : State} {g : ℕ} {G : Group} (hlocked : s.locked = true) (hG : s.groups[g]? = some G)
    {j : Fin Config.tableSize} {d : Decoded} (hj : Finds G (s.opw.setWidth 8) j)
    (hd : decodeWord (s.nan 0) G.entries[j] s.opw = .ok d) :
    ∃ t, exec (.rxw g) s = .next t ∧ t.locked = true ∧ t.groups[g]? = some (G.receive j s.opw s.env.now d) :=
  ⟨_, exec_rxw_of_ok hlocked hG hj hd, hlocked, getElem?_groups_setGroup hG _⟩

/-- Settles O48: GETD measures the time from the receipt that RXW has just stored. -/
theorem freshnessEndsAtMaxTx : Obligations.FreshnessEndsAtMaxTx := by
  unfold Obligations.FreshnessEndsAtMaxTx
  intro s g G j d k hlocked hG hj hd hk
  obtain ⟨t, ht, hlocked', hG'⟩ := exists_rxw_receive hlocked hG hj (hd _)
  refine ⟨t, _, ht, exec_getd_of_finds (s := { t with env := { t.env with now := s.env.now + BitVec.ofNat 32 k } })
    hlocked' hG' (hj.of_config_eq (G.config_receive j s.opw s.env.now d)), ?_⟩
  rw [State.finish_outf, getLsbD_outfWord_fresh, isFresh_iff, receive_slot]
  simp only [Slot.receive, Group.receive, elapsedMs_add s.env.now hk]

/-- Settles O49: the second receipt measures the time from the first. -/
theorem fastWordsAreBabbling : Obligations.FastWordsAreBabbling := by
  unfold Obligations.FastWordsAreBabbling
  intro s g G j d d' w k hlocked hG hj hd hlabel hd' hk
  have hj' : Finds (G.receive j s.opw s.env.now d) (w.setWidth 8) j := by
    rw [hlabel]
    exact hj.of_config_eq (G.config_receive j s.opw s.env.now d)
  obtain ⟨t, ht, hlocked', hG'⟩ := exists_rxw_receive hlocked hG hj (hd _)
  obtain ⟨u, hu, -, hG''⟩ := exists_rxw_receive
    (s := { t with opw := w, env := { t.env with now := s.env.now + BitVec.ofNat 32 k } }) hlocked' hG' hj' (hd' _)
  refine ⟨t, u, _, ht, hu, hG'', ?_⟩
  rw [receive_slot, receive_nb_iff, receive_slot]
  simp only [Slot.receive, Group.receive, elapsedMs_add s.env.now hk]

end Sys2Proof.Spec
end

section
/-! PROOFS. Slots are written by receipts and by reset only (rules R43, R192): what a receipt, a command and a host
write do to the registers of one slot. -/

namespace Sys2Proof.Spec

open Sys2Proof.Machine

variable {s : State} (g : ℕ) (j : Fin Config.tableSize) (r : SlotReg)

/-! ### Updates of the state -/

/-- The slots are in the groups only. -/
theorem readReg_slot_congr {t : State} (h : t.groups = s.groups) :
    readReg t (.slot g j r) = readReg s (.slot g j r) := by
  simp only [readReg, h]

/-- Of the registers of slot (g, j), a good receipt in group `k` writes those of the entry that the lookup finds. -/
theorem readReg_slot_receive_cases {k : ℕ} {G : Group} (hG : s.groups[k]? = some G) {w : Word}
    {i : Fin Config.tableSize} (hi : G.lookup (wordLabel w) = some i) (t : Word) (d : Decoded) :
    readReg (s.setGroup k (G.receive i w t d)) (.slot g j r) = readReg s (.slot g j r) ∨
      k = g ∧ Finds G (w.setWidth 8) j := by
  by_cases hsame : g = k ∧ j = i
  · obtain ⟨rfl, rfl⟩ := hsame
    rw [wordLabel_eq] at hi
    exact .inr ⟨rfl, lookup_eq_some_iff_finds.mp hi⟩
  · exact .inl (readReg_slot_receive_ne hG i w t d hsame r)

theorem readReg_slot_drainIter (d : DrainProgress) :
    readReg (drainIter d s) (.slot g j r) = readReg s (.slot g j r) ∨
      d.grp = g ∧ ∃ G, s.groups[g]? = some G ∧ Finds G ((s.rxHead g).setWidth 8) j := by
  obtain ⟨-, -, -, -, -, -, -, -, -, -, -, -, -, -, -, -, -, hgroups⟩ := drainIter_keeps d s
  rcases hgroups with hsame | ⟨G, G', i, w, nan, x, hG, hset, rfl, -, hi, -, rfl⟩
  · exact .inl (readReg_slot_congr g j r hsame)
  · rcases readReg_slot_receive_cases g j r hG hi s.env.now x with hkeep | ⟨rfl, hj⟩
    · exact .inl ((readReg_slot_congr g j r hset).trans hkeep)
    · exact .inr ⟨rfl, G, hG, hj⟩

theorem readReg_slot_processReceived {k : ℕ} {G : Group} (hG : s.groups[k]? = some G) (w : Word) :
    readReg (processReceived k G w s).2 (.slot g j r) = readReg s (.slot g j r) ∨
      k = g ∧ Finds G (w.setWidth 8) j := by
  rcases processReceived_cases k G w s with ⟨-, h⟩ | ⟨i, code, -, -, h⟩ | ⟨i, x, hi, -, h⟩ <;> rw [h]
  · exact .inl rfl
  · exact .inl rfl
  · exact readReg_slot_receive_cases g j r hG hi s.clock x

/-! ### Commands and host writes -/

/-- A command is the receipt of a word in slot (g, j): RXW of the word in OPW, or DRAIN of the head of the queue. -/
def ReceivesIn (s : State) (i : Instr) : Prop :=
  ∃ G, s.groups[g]? = some G ∧
    ((i = .rxw g ∧ Finds G (s.opw.setWidth 8) j) ∨ (i = .drain g ∧ Finds G ((s.rxHead g).setWidth 8) j))

theorem readReg_slot_exec {i : Instr} {t : State} (h : exec i s = .next t) :
    readReg t (.slot g j r) = readReg s (.slot g j r) ∨ ReceivesIn g j s i := by
  apply exec_elim (P := fun t => readReg t (.slot g j r) = readReg s (.slot g j r) ∨ ReceivesIn g j s i) i s t h
  case rxw =>
    rintro k G rfl - hG
    rcases readReg_slot_processReceived g j r hG s.opw with hkeep | ⟨rfl, hj⟩
    · exact .inl hkeep
    · exact .inr ⟨G, hG, .inl ⟨rfl, hj⟩⟩
  case drain =>
    rintro k - rfl - -
    rcases readReg_slot_drainIter (s := s) g j r ⟨k, 0, 0⟩ with hkeep | ⟨rfl, G, hG, hj⟩
    · exact .inl hkeep
    · exact .inr ⟨G, hG, .inr ⟨rfl, hj⟩⟩
  case tick => exact fun k G _ _ hG => .inl (readAt_set_keep hG fun _ => rfl)
  all_goals intros; exact .inl (readReg_slot_congr g j r rfl)

theorem readReg_slot_modify (k : ℕ) {u : Group → Group} (hu : ∀ G, (u G).slots = G.slots) :
    readReg (configWrite s { s with groups := s.groups.modify k u }) (.slot g j r) = readReg s (.slot g j r) := by
  unfold configWrite
  split
  · rfl
  · simp only [readReg, readAt_modify, hu, ite_self]

/-- The slots are read-only to the host (rule R82). -/
theorem readReg_slot_writeReg (x : Reg) (v : Word) :
    readReg (writeReg s x v) (.slot g j r) = readReg s (.slot g j r) := by
  have hconfig {s' : State} (h : s'.groups = s.groups) : (configWrite s s').groups = s.groups := by
    unfold configWrite
    split
    · rfl
    · exact h
  cases x with
  | gnum k | gmaxbf k | entry k i x => exact readReg_slot_modify g j r k fun _ => rfl
  | lp e x | df e x | ct t x => exact readReg_slot_congr g j r (hconfig rfl)
  | _ => rfl

theorem readReg_slot_busWrite (a : BitVec 16) (v : Word) :
    readReg (busWrite s a v) (.slot g j r) = readReg s (.slot g j r) := by
  unfold busWrite
  split
  · exact readReg_slot_writeReg g j r _ v
  · rfl

/-- A host transaction writes slot (g, j) only as a command to CMD that receives a word there. -/
theorem readReg_slot_access {x : Txn} {t : State} (h : access command x s = .next t) :
    readReg t (.slot g j r) = readReg s (.slot g j r) ∨
      ∃ c i, x = .write cmdAddr 4 c ∧ decode c = .ok i ∧ ReceivesIn g j s i := by
  rcases access_cases x s t h with rfl | ⟨a, -, rfl⟩ | ⟨a, v, -, -, rfl⟩ | ⟨c, u, rfl, hcommand, rfl⟩
  · exact .inl rfl
  · exact .inl rfl
  · exact .inl (readReg_slot_busWrite g j r a v)
  · rcases command_cases c s u hcommand with ⟨i, hdecode, hexec⟩ | ⟨e, -, rfl⟩
    · rcases readReg_slot_exec g j r hexec with hkeep | hreceives
      · exact .inl hkeep
      · exact .inr ⟨c, i, rfl, hdecode, hreceives⟩
    · exact .inl rfl

/-- Settles O39: of the moves of a step only those named reach a slot, and a receipt only the slot its lookup finds. -/
theorem onlyReceiptsWriteSlots : Obligations.OnlyReceiptsWriteSlots := by
  unfold Obligations.OnlyReceiptsWriteSlots
  intro s t g j r hstep hchange
  rcases step_cases s t hstep with ⟨d, hd, hdrain⟩ | ⟨-, -, rfl⟩ | ⟨rest, -, -, rfl⟩ | ⟨x, rest, hd, hagenda, haccess⟩ |
    ⟨n, rest, -, rfl⟩ | ⟨k, ws, rest, -, rfl⟩ | ⟨rest, hagenda, -⟩
  · refine .inr (.inl ⟨d, hd, ?_⟩)
    rcases hdrain with ⟨-, rfl⟩ | ⟨rest, -, rfl⟩
    · exact (readReg_slot_drainIter g j r d).resolve_left hchange
    · exact (readReg_slot_drainIter (s := { s with agenda := rest }) g j r d).resolve_left hchange
  · exact absurd rfl hchange
  · exact absurd rfl hchange
  · rcases readReg_slot_access (s := { s with agenda := rest }) g j r haccess with
      hkeep | ⟨c, i, rfl, hdecode, G, hG, hi⟩
    · exact absurd hkeep hchange
    · refine .inr (.inr ⟨hd, c, rest, hagenda, G, hG, ?_⟩)
      rcases hi with ⟨rfl, hj⟩ | ⟨rfl, hj⟩
      · exact .inl ⟨hdecode, hj⟩
      · exact .inr ⟨hdecode, hj⟩
  · exact absurd rfl hchange
  · exact absurd rfl hchange
  · exact .inl ⟨rest, hagenda⟩

end Sys2Proof.Spec
end

section
/-! PROOFS. DRAIN (rules R104, R191, R205): what one iteration does with the word it takes, and the run of iterations to
the end. -/

namespace Sys2Proof.Spec

open Sys2Proof.Machine

/-! ### The word taken from the port -/

theorem drainWord_of_parity {g : ℕ} {w : Word} {s : State} (h : w.getLsbD 31 = true) :
    drainWord g w s = (false, s) := by
  rw [drainWord, if_pos h]

theorem drainWord_of_group {g : ℕ} {G : Group} {w : Word} {s : State} (h : w.getLsbD 31 = false)
    (hG : s.groups[g]? = some G) :
    drainWord g w s = ((processReceived g G w s).1 == .success, (processReceived g G w s).2) := by
  simp only [drainWord, h, hG, Bool.false_eq_true, if_false]

/-- A word reaches neither the environment nor the port's answer. -/
theorem drainWord_keeps (g : ℕ) (w : Word) (s : State) :
    (drainWord g w s).2.env = s.env ∧ (drainWord g w s).2.agenda = s.agenda ∧ (drainWord g w s).2.resp = s.resp := by
  rcases drainWord_cases g w s with h | ⟨G, j, d, -, -, -, -, h⟩ <;> rw [h] <;> exact ⟨rfl, rfl, rfl⟩

/-- What the statements say of a word is what an iteration makes of it: a word that is no success writes nothing, and a
success is a good receipt (rules R104, R191, R205). -/
theorem WordEffect.drainWord {s : State} {g : ℕ} {G : Group} {w : Word} {ws : List (Reg × Word)} {ok : ℕ}
    (h : WordEffect s g G w ws ok) (hG : s.groups[g]? = some G) :
    Writes s (drainWord g w s).2 ws ∧ (drainWord g w s).1.toNat = ok := by
  rcases h with ⟨rfl, rfl, hbad⟩ | ⟨hparity, rfl, j, d, nb, hj, hd, hnb, rfl⟩
  · suffices hsame : Machine.drainWord g w s = (false, s) by
      rw [hsame]
      exact ⟨writes_refl s, rfl⟩
    cases hparity : w.getLsbD 31 with
    | true => exact drainWord_of_parity hparity
    | false =>
      rw [drainWord_of_group hparity hG]
      rcases hbad with hset | habsent | ⟨j, hj, herror⟩
      · rw [hparity] at hset
        cases hset
      · rw [processReceived_of_absent habsent]
        rfl
      · rw [processReceived_of_error hj (herror _)]
        rfl
  · rw [drainWord_of_group hparity hG, processReceived_of_ok hj (hd _)]
    exact ⟨writes_receive hG j w s.env.now d hnb, rfl⟩

/-- The word is handled after it is off the queue (rule R85). -/
theorem WordEffect.drainWord_rxDrop {s : State} {g : ℕ} {G : Group} {w : Word} {ws : List (Reg × Word)} {ok : ℕ}
    (h : WordEffect s g G w ws ok) (hG : s.groups[g]? = some G) :
    Writes s (Machine.drainWord g w (s.rxDrop g)).2 ws ∧ (Machine.drainWord g w (s.rxDrop g)).1.toNat = ok := by
  obtain ⟨hwrites, hok⟩ := WordEffect.drainWord (s := s.rxDrop g) h hG
  exact ⟨hwrites.congr (readReg_rxDrop s g) fun _ => rfl, hok⟩

/-- A word writes no register that the end of a DRAIN writes. -/
theorem WordEffect.disjoint {s : State} {g : ℕ} {G : Group} {w : Word} {ws : List (Reg × Word)} {ok : ℕ}
    (h : WordEffect s g G w ws ok) (nread nok : ℕ) : ∀ p ∈ ws, p.1 ∉ (drainEnd nread nok).map Prod.fst := by
  rcases h with ⟨rfl, -⟩ | ⟨-, -, j, d, nb, -, -, -, rfl⟩
  · simp
  · simp [receiptWrites, pair, drainEnd, res]

/-! ### One iteration -/

/-- The end of a DRAIN (rule R205). -/
theorem writes_drainDone (s : State) (d : DrainProgress) : Writes s (s.drainDone d) (drainEnd d.nread d.nok) := by
  refine ⟨fun p hp => ?_, fun r hr => ?_⟩
  · simp only [drainEnd, List.mem_cons, List.not_mem_nil, or_false] at hp
    rcases hp with rfl | rfl | rfl
    · rfl
    · rfl
    · exact resultWord_eq .success (Instr.drain d.grp).opc
  · cases r with
    | outi | outd | result => exact absurd hr (by simp [drainEnd, res])
    | _ => rfl

theorem drainIter_of_not_ready {d : DrainProgress} {s : State} (h : ¬ PortReady s d.grp) :
    drainIter d s = s.drainDone d := by
  rw [drainIter, if_neg (mt (rxReady_iff s d.grp).mp h)]

/-- A port that is absent or empty has no word to read (rule R85). -/
theorem not_portReady {s : State} {g : ℕ} {p : Port} (hport : s.env.ports[g]? = some p)
    (hempty : p.present = false ∨ p.queue = []) : ¬ PortReady s g := by
  rintro ⟨p', hport', hpresent, hqueue⟩
  rw [hport, Option.some.injEq] at hport'
  subst hport'
  rcases hempty with habsent | hnil
  · rw [habsent] at hpresent
    cases hpresent
  · exact hqueue hnil

theorem ite_succ_eq (b : Bool) (k : ℕ) : (if b then k + 1 else k) = k + b.toNat := by cases b <;> rfl

section
variable {s : State} {g : ℕ} {p : Port} {w : Word} {q : List Word} (hport : s.env.ports[g]? = some p)
  (hpresent : p.present = true) (hqueue : p.queue = w :: q)
include hport hqueue

theorem rxHead_eq : s.rxHead g = w := by
  rw [State.rxHead, hport]
  simp only [hqueue, List.headD_cons]

theorem rxDrop_env_eq : (s.rxDrop g).env = { s.env with ports := s.env.ports.set g { p with queue := q } } := by
  rw [State.rxDrop_env, modify_eq_set hport, hqueue]
  rfl

include hpresent

theorem rxReady_eq_true : s.rxReady g = true :=
  (rxReady_iff s g).mpr ⟨p, hport, hpresent, by rw [hqueue]; exact List.cons_ne_nil w q⟩

/-- An iteration that does not reach the 32nd word leaves the DRAIN in progress. -/
theorem drainIter_of_lt {n : ℕ} (k : ℕ) (hn : n < 31) :
    drainIter ⟨g, n, k⟩ s =
      { (drainWord g w (s.rxDrop g)).2 with
        drain := some ⟨g, n + 1, k + (drainWord g w (s.rxDrop g)).1.toNat⟩ } := by
  simp only [drainIter, rxReady_eq_true hport hpresent hqueue, rxHead_eq hport hqueue, ite_succ_eq, if_true]
  rw [if_pos (by simp only [Config.drainMax]; omega)]

/-- The iteration that takes the 32nd word ends the DRAIN. -/
theorem drainIter_of_last (k : ℕ) :
    drainIter ⟨g, 31, k⟩ s =
      (drainWord g w (s.rxDrop g)).2.drainDone ⟨g, 32, k + (drainWord g w (s.rxDrop g)).1.toNat⟩ := by
  simp only [drainIter, rxReady_eq_true hport hpresent hqueue, rxHead_eq hport hqueue, ite_succ_eq, if_true]
  rw [if_neg (by decide)]

theorem drainIter_env (k : ℕ) {n : ℕ} (hn : n < 32) :
    (drainIter ⟨g, n, k⟩ s).env = { s.env with ports := s.env.ports.set g { p with queue := q } } := by
  obtain ⟨henv, -⟩ := drainWord_keeps g w (s.rxDrop g)
  rw [← rxDrop_env_eq hport hqueue, ← henv]
  rcases Nat.lt_or_ge n 31 with hlt | hge
  · rw [drainIter_of_lt hport hpresent hqueue k hlt]
  · obtain rfl : n = 31 := by omega
    rw [drainIter_of_last hport hpresent hqueue k, State.drainDone_env]

variable {G : Group} {ws : List (Reg × Word)} {ok : ℕ} (hG : s.groups[g]? = some G) (hword : WordEffect s g G w ws ok)
include hG hword

/-- An iteration on a ready port before the 32nd word (rule R205). -/
theorem drainIter_more (k : ℕ) {n : ℕ} (hn : n < 31) :
    Writes s (drainIter ⟨g, n, k⟩ s) ws ∧ (drainIter ⟨g, n, k⟩ s).drain = some ⟨g, n + 1, k + ok⟩ := by
  obtain ⟨hwrites, hok⟩ := hword.drainWord_rxDrop hG
  rw [drainIter_of_lt hport hpresent hqueue k hn, hok]
  exact ⟨hwrites.congr (fun _ => rfl) fun r => readReg_rest _ _ _ _ _ _ r, rfl⟩

/-- The iteration on a ready port that takes the 32nd word (rule R205). -/
theorem drainIter_last (k : ℕ) :
    Writes s (drainIter ⟨g, 31, k⟩ s) (ws ++ drainEnd 32 (k + ok)) ∧ (drainIter ⟨g, 31, k⟩ s).drain = none := by
  obtain ⟨hwrites, hok⟩ := hword.drainWord_rxDrop hG
  rw [drainIter_of_last hport hpresent hqueue k, hok]
  exact ⟨hwrites.append (writes_drainDone _ _) (hword.disjoint 32 (k + ok)), rfl⟩

end

/-! ### Iterations as commands and steps -/

theorem exec_drain {s : State} {g : ℕ} {G : Group} (hlocked : s.locked = true) (hG : s.groups[g]? = some G) :
    exec (.drain g) s = .next (drainIter ⟨g, 0, 0⟩ s) := by
  simp only [exec, execDrain, withGroup_run _ s g G _ hlocked hG]

/-- When the block moves, a DRAIN in progress takes one iteration (rules R72, R205). -/
theorem step_of_blockMoves {s : State} {d : DrainProgress} {rest : List Event} (hdrain : s.drain = some d)
    (hmoves : BlockMoves s rest) : step s = .next (answerCommand (drainIter d { s with agenda := rest })) := by
  obtain ⟨hwait, hpause⟩ := step_drain s d hdrain
  rcases hmoves with ⟨hagenda, rfl⟩ | ⟨x, r, hagenda, rfl⟩ | hagenda
  · rw [hwait (.inl hagenda), ← hagenda]
    rfl
  · exact hwait (.inr ⟨x, r, hagenda⟩)
  · exact hpause rest hagenda

/-- The port's answer is no register. -/
theorem Writes.answerCommand {s t : State} {ws : List (Reg × Word)} (h : Writes s t ws) :
    Writes s (answerCommand t) ws :=
  writes_agenda_resp h t.agenda _

/-- Settles O40: the first iteration finds the port not ready, and ends the DRAIN. -/
theorem drainOfAnEmptyPortReadsNothing : Obligations.DrainOfAnEmptyPortReadsNothing := by
  unfold Obligations.DrainOfAnEmptyPortReadsNothing
  intro s g p hlocked hg hdrain hport hempty
  refine ⟨_, exec_drain hlocked (List.getElem?_eq_getElem hg), ?_⟩
  rw [drainIter_of_not_ready (not_portReady hport hempty)]
  exact ⟨writes_drainDone s ⟨g, 0, 0⟩, rfl, rfl, rfl, hdrain.symm, rfl, rfl, rfl⟩

/-- Settles O41: the first iteration is run by the command and the others by a step, and all are the same. -/
theorem drainTakesOneWordAnIteration : Obligations.DrainTakesOneWordAnIteration := by
  unfold Obligations.DrainTakesOneWordAnIteration
  refine fun s g => ⟨fun G p w q ws ok hG hport hpresent hqueue hword => ⟨fun hlocked => ?_,
    fun nread nok rest hdrain hlt hmoves => ?_⟩, fun nread nok rest hready hdrain hmoves => ?_⟩
  · obtain ⟨hwrites, hdrain⟩ := drainIter_more hport hpresent hqueue hG hword 0 (n := 0) (by decide)
    obtain ⟨-, -, -, -, -, -, -, -, -, -, -, -, -, -, hagenda, hresp, -⟩ := drainIter_keeps ⟨g, 0, 0⟩ s
    rw [Nat.zero_add, Nat.zero_add] at hdrain
    exact ⟨_, exec_drain hlocked hG, drainIter_env hport hpresent hqueue 0 (by decide), hagenda, hresp, hwrites, hdrain⟩
  · have hword' : WordEffect { s with agenda := rest } g G w ws ok := hword
    refine ⟨_, step_of_blockMoves hdrain hmoves,
      drainIter_env (s := { s with agenda := rest }) hport hpresent hqueue nok hlt,
      drainIter_agenda _ { s with agenda := rest }, fun hmore => ?_, ?_⟩
    · obtain ⟨hwrites, hnext⟩ :=
        drainIter_more (s := { s with agenda := rest }) hport hpresent hqueue hG hword' nok hmore
      refine ⟨(hwrites.congr (readReg_agenda_resp s rest s.resp) fun _ => rfl).answerCommand, hnext, ?_⟩
      rw [answerCommand_eq, hnext]
      rfl
    · rintro rfl
      obtain ⟨hwrites, hnext⟩ := drainIter_last (s := { s with agenda := rest }) hport hpresent hqueue hG hword' nok
      refine ⟨(hwrites.congr (readReg_agenda_resp s rest s.resp) fun _ => rfl).answerCommand, hnext, ?_⟩
      rw [answerCommand_eq, hnext]
      rfl
  · have hready' : ¬ PortReady { s with agenda := rest } g := hready
    refine ⟨_, step_of_blockMoves hdrain hmoves, ?_⟩
    rw [drainIter_of_not_ready hready']
    exact ⟨rfl, rfl,
      ((writes_drainDone _ ⟨g, nread, nok⟩).congr (readReg_agenda_resp s rest s.resp) fun _ => rfl).answerCommand,
      rfl, rfl⟩

end Sys2Proof.Spec
end

section
/-! PROOFS. A DRAIN with a quiet environment runs to its end (rule R205): what its counts and the queue are there, one
iteration at a time. -/

namespace Sys2Proof.Spec

open Sys2Proof.Machine

/-! ### Good words -/

/-- Whether a word decodes does not depend on the NaN drawn. -/
theorem decodeWord_isOk (nan nan' : Flt) (c : LabelConfig) (w : Word) :
    (decodeWord nan c w).isOk = (decodeWord nan' c w).isOk := by
  cases htype : c.msgType with
  | bcd =>
    rw [decodeWord_bcd htype, decodeWord_bcd htype, decodeBcd, decodeBcd]
    split_ifs <;> rfl
  | bnr | discrete | reserved => simp only [decodeWord, htype, Except.isOk, Except.toBool]

theorem toNat_lt_iff_getLsbD (w : Word) : w.toNat < 2 ^ 31 ↔ w.getLsbD 31 = false := by
  have hmsb : w.getLsbD 31 = w.msb := rfl
  rw [hmsb, BitVec.msb_eq_decide, decide_eq_false_iff_not, not_le]

theorem drainGood_of_parity {G : Group} {w : Word} (h : w.getLsbD 31 = true) : drainGood G w = false := by
  have hlarge : ¬ w.toNat < 2 ^ 31 := by rw [toNat_lt_iff_getLsbD, h]; decide
  rw [drainGood, decide_eq_false hlarge, Bool.false_and]

theorem drainGood_of_absent {G : Group} {w : Word} (h : Absent G (w.setWidth 8)) : drainGood G w = false := by
  rw [drainGood, lookup_eq_none_iff_absent.mpr h, Bool.and_false]

theorem drainGood_of_finds {G : Group} {w : Word} {j : Fin Config.tableSize} (hparity : w.getLsbD 31 = false)
    (hj : Finds G (w.setWidth 8) j) (nan : Flt) : drainGood G w = (decodeWord nan G.entries[j] w).isOk := by
  simp only [decodeWord_isOk nan 0, drainGood, decide_eq_true ((toNat_lt_iff_getLsbD w).mpr hparity),
    lookup_eq_some_iff_finds.mpr hj, Bool.true_and]
  cases decodeWord 0 G.entries[j] w <;> rfl

/-- An iteration counts the good words (rule R205). -/
theorem drainWord_fst {g : ℕ} {G : Group} {s : State} (hG : s.groups[g]? = some G) (w : Word) :
    (drainWord g w s).1 = drainGood G w := by
  cases hparity : w.getLsbD 31 with
  | true => rw [drainWord_of_parity hparity, drainGood_of_parity hparity]
  | false =>
    rw [drainWord_of_group hparity hG]
    cases hlookup : G.lookup (w.setWidth 8) with
    | none =>
      have habsent := lookup_eq_none_iff_absent.mp hlookup
      rw [processReceived_of_absent habsent, drainGood_of_absent habsent]
      rfl
    | some j =>
      have hj := lookup_eq_some_iff_finds.mp hlookup
      rw [drainGood_of_finds hparity hj (s.nan 0)]
      cases hd : decodeWord (s.nan 0) G.entries[j] w with
      | error code =>
        rw [processReceived_of_error hj hd]
        rcases decodeWord_error _ _ _ _ hd with ⟨-, rfl⟩ | ⟨-, rfl⟩ <;> rfl
      | ok d =>
        rw [processReceived_of_ok hj hd]
        rfl

theorem drainGood_of_config_eq {G G' : Group} (h : G'.config = G.config) : drainGood G' = drainGood G := by
  simp only [Group.config, Prod.mk.injEq] at h
  obtain ⟨hnum, -, hentries⟩ := h
  funext w
  simp only [drainGood, Group.lookup, hnum, hentries]

theorem length_filter_cons (f : Word → Bool) (w : Word) (q : List Word) :
    ((w :: q).filter f).length = (f w).toNat + (q.filter f).length := by
  rw [List.filter_cons]
  cases f w
  · simp
  · simp [Nat.add_comm]

/-! ### The end of a DRAIN -/

/-- `u` is the end of a DRAIN of group g, which is `G`, that has read `n` words, `k` of them good, before the queue of
port `p` in the environment `env` (rule R205). -/
structure DrainEnd (env : Env) (config : Configuration) (g : ℕ) (G : Group) (p : Port) (n k : ℕ) (u : State) :
    Prop where
  drain : u.drain = none
  env : u.env = { env with ports := env.ports.set g { p with queue := p.queue.drop (32 - n) } }
  outi : u.outi = BitVec.ofNat 32 (n + min p.queue.length (32 - n))
  outd : u.outd = BitVec.ofNat 32 (k + ((p.queue.take (32 - n)).filter (drainGood G)).length)
  result : u.result = 0x2100
  config : configOf u = config

section
variable {s : State} {g : ℕ} {G : Group} {p : Port} (hG : s.groups[g]? = some G) (hport : s.env.ports[g]? = some p)

include hport in
/-- With the queue empty the DRAIN ends at once. -/
theorem drainEnd_of_nil (hqueue : p.queue = []) (n k : ℕ) :
    DrainEnd s.env (configOf s) g G p n k (drainIter ⟨g, n, k⟩ s) := by
  have hsame : { p with queue := p.queue.drop (32 - n) } = p := by
    obtain ⟨present, queue⟩ := p
    simp_all
  have hconfig := configOf_drainIter ⟨g, n, k⟩ s
  rw [drainIter_of_not_ready (not_portReady hport (.inr hqueue))] at hconfig ⊢
  refine ⟨rfl, ?_, ?_, ?_, ?_, hconfig⟩
  · obtain ⟨hg, hp⟩ := List.getElem?_eq_some_iff.mp hport
    rw [hsame, ← hp, List.set_getElem_self]
    rfl
  · simp [hqueue]
  · simp [hqueue]
  · exact (State.drainDone_result s _).trans (by decide)

variable (hpresent : p.present = true) {w : Word} {q : List Word} (hqueue : p.queue = w :: q)
include hport hpresent hqueue

/-- Before the 32nd word, the end of the DRAIN is that of the DRAIN of the rest of the queue. -/
theorem drainEnd_of_more (k : ℕ) {n : ℕ} (hn : n < 31) {G' : Group} (hG' : G'.config = G.config) {u : State}
    (h : DrainEnd (drainIter ⟨g, n, k⟩ s).env (configOf (drainIter ⟨g, n, k⟩ s)) g G' { p with queue := q } (n + 1)
      (k + (drainGood G w).toNat) u) : DrainEnd s.env (configOf s) g G p n k u := by
  obtain ⟨hdrain, henv, houti, houtd, hresult, hconfig⟩ := h
  have hcount : 32 - n = (32 - (n + 1)) + 1 := by omega
  rw [drainIter_env hport hpresent hqueue k (by omega)] at henv
  rw [drainGood_of_config_eq hG'] at houtd
  refine ⟨hdrain, ?_, ?_, ?_, hresult, hconfig.trans (configOf_drainIter _ s)⟩
  · rw [henv, List.set_set, hqueue, hcount, List.drop_succ_cons]
  · rw [houti, hqueue, List.length_cons]
    congr 1
    simp only
    omega
  · rw [houtd, hqueue, hcount, List.take_succ_cons, length_filter_cons, Nat.add_assoc]

include hG in
/-- The 32nd word ends the DRAIN. -/
theorem drainEnd_of_last (k : ℕ) : DrainEnd s.env (configOf s) g G p 31 k (drainIter ⟨g, 31, k⟩ s) := by
  have henv := drainIter_env hport hpresent hqueue k (n := 31) (by decide)
  have hconfig := configOf_drainIter ⟨g, 31, k⟩ s
  have hgood : (drainWord g w (s.rxDrop g)).1 = drainGood G w := drainWord_fst (s := s.rxDrop g) hG w
  rw [drainIter_of_last hport hpresent hqueue k, hgood] at henv hconfig ⊢
  refine ⟨rfl, ?_, ?_, ?_, ?_, hconfig⟩
  · rw [henv, hqueue]
    rfl
  · rw [State.drainDone_outi, hqueue, List.length_cons, Nat.min_eq_right (by omega)]
  · rw [State.drainDone_outd, hqueue, show 32 - 31 = 0 + 1 from rfl, List.take_succ_cons, length_filter_cons]
    rfl
  · exact (State.drainDone_result _ _).trans (by decide)

end

/-! ### The run -/

theorem run_succ {s t : State} (h : step s = .next t) (m : ℕ) :
    Sys2Proof.core.run (m + 1) s = Sys2Proof.core.run m t := by
  have hcore : Sys2Proof.core.step s = .next t := h
  simp only [Host.Core.run, hcore]

/-- With no DRAIN in progress and nothing to come, nothing moves (rule R72). -/
theorem run_idle {s : State} (hdrain : s.drain = none) (hagenda : s.agenda = []) (m : ℕ) :
    Sys2Proof.core.run m s = .next s := by
  induction m with
  | zero => rfl
  | succ m ih =>
    have hstep : step s = .next s := by simp only [step, turn, hagenda, hdrain]
    rw [run_succ hstep, ih]

/-- A group keeps its configuration in an iteration (rules R191, R205). -/
theorem exists_group_drainIter {s : State} {g : ℕ} {G : Group} (hG : s.groups[g]? = some G) (d : DrainProgress) :
    ∃ G', (drainIter d s).groups[g]? = some G' ∧ G'.config = G.config := by
  have hmap := congrArg (fun c => c.groups[g]?) (configOf_drainIter d s)
  simp only [configOf_eq, List.getElem?_map, hG, Option.map_some] at hmap
  exact Option.map_eq_some_iff.mp hmap

/-- An iteration ends the DRAIN, or leaves one in progress on the rest of the queue with the same end. -/
theorem drainIter_progress {s : State} {g : ℕ} {G : Group} {p : Port} (hG : s.groups[g]? = some G)
    (hport : s.env.ports[g]? = some p) (hpresent : p.present = true) (k : ℕ) {n : ℕ} (hn : n < 32) :
    DrainEnd s.env (configOf s) g G p n k (drainIter ⟨g, n, k⟩ s) ∨
    ∃ G' p' k', n + 1 < 32 ∧ (drainIter ⟨g, n, k⟩ s).drain = some ⟨g, n + 1, k'⟩ ∧
      (drainIter ⟨g, n, k⟩ s).groups[g]? = some G' ∧ (drainIter ⟨g, n, k⟩ s).env.ports[g]? = some p' ∧
      p'.present = true ∧
      ∀ u, DrainEnd (drainIter ⟨g, n, k⟩ s).env (configOf (drainIter ⟨g, n, k⟩ s)) g G' p' (n + 1) k' u →
        DrainEnd s.env (configOf s) g G p n k u := by
  cases hqueue : p.queue with
  | nil => exact .inl (drainEnd_of_nil hport hqueue n k)
  | cons w q =>
    rcases Nat.lt_or_ge n 31 with hlt | hge
    · obtain ⟨G', hG', hconfig⟩ := exists_group_drainIter hG ⟨g, n, k⟩
      have hgood : (drainWord g w (s.rxDrop g)).1 = drainGood G w := drainWord_fst (s := s.rxDrop g) hG w
      refine .inr ⟨G', { p with queue := q }, k + (drainGood G w).toNat, by omega, ?_, hG', ?_, hpresent,
        fun u => drainEnd_of_more hport hpresent hqueue k hlt hconfig⟩
      · rw [drainIter_of_lt hport hpresent hqueue k hlt, hgood]
      · rw [drainIter_env hport hpresent hqueue k hn]
        exact List.getElem?_set_self (List.getElem?_eq_some_iff.mp hport).1
    · obtain rfl : n = 31 := by omega
      exact .inl (drainEnd_of_last hG hport hpresent hqueue k)

/-- A DRAIN in progress ends when it has taken as many steps as words it may still read (rule R205). -/
theorem run_drain {g n k : ℕ} (m : ℕ) {s : State} {G : Group} {p : Port} (hdrain : s.drain = some ⟨g, n, k⟩)
    (hagenda : s.agenda = []) (hG : s.groups[g]? = some G) (hport : s.env.ports[g]? = some p)
    (hpresent : p.present = true) (hn : n < 32) (hm : 32 ≤ n + m) :
    ∃ u, Sys2Proof.core.run m s = .next u ∧ DrainEnd s.env (configOf s) g G p n k u := by
  induction m generalizing n k s G p with
  | zero => omega
  | succ m ih =>
    have hstep : step s = .next (answerCommand (drainIter ⟨g, n, k⟩ s)) := (step_drain s _ hdrain).1 (.inl hagenda)
    have hagenda' : (drainIter ⟨g, n, k⟩ s).agenda = [] := (drainIter_agenda _ s).trans hagenda
    rw [run_succ hstep]
    rcases drainIter_progress hG hport hpresent k hn with
      hend | ⟨G', p', k', hn', hdrain', hG', hport', hpresent', hend⟩
    · refine ⟨_, run_idle (s := answerCommand (drainIter ⟨g, n, k⟩ s)) hend.drain hagenda' m, ?_⟩
      exact ⟨hend.drain, hend.env, hend.outi, hend.outd, hend.result, hend.config⟩
    · obtain ⟨u, hu, hend'⟩ := ih (s := answerCommand (drainIter ⟨g, n, k⟩ s)) hdrain' hagenda' hG' hport' hpresent' hn'
        (by omega)
      exact ⟨u, hu, hend u hend'⟩

/-- Settles O42: the first iteration, then the run of those that are left. -/
theorem drainRunsToItsEnd : Obligations.DrainRunsToItsEnd := by
  unfold Obligations.DrainRunsToItsEnd
  intro s g G p hlocked _ hagenda hG hport hpresent
  have hagenda' : (drainIter ⟨g, 0, 0⟩ s).agenda = [] := (drainIter_agenda _ s).trans hagenda
  suffices hrun : ∃ u, Sys2Proof.core.run 32 (drainIter ⟨g, 0, 0⟩ s) = .next u ∧
      DrainEnd s.env (configOf s) g G p 0 0 u by
    obtain ⟨u, hu, hend⟩ := hrun
    refine ⟨_, u, exec_drain hlocked hG, hu, hend.drain, hend.env, ?_, ?_, hend.result, hend.config⟩
    · rw [hend.outi, Nat.zero_add]
    · rw [hend.outd, Nat.zero_add]
  rcases drainIter_progress hG hport hpresent 0 (n := 0) (by decide) with
    hend | ⟨G', p', k', hn, hdrain, hG', hport', hpresent', hend⟩
  · exact ⟨_, run_idle hend.drain hagenda' 32, hend⟩
  · obtain ⟨u, hu, hend'⟩ := run_drain 32 hdrain hagenda' hG' hport' hpresent' hn (by decide)
    exact ⟨u, hu, hend u hend'⟩

end Sys2Proof.Spec
end

section
/-! PROOFS. Facts that the filter commands need: comparisons and results that are no NaN (rules R12, R231), and a spool
cycle by the number its count stands for (rule R250). -/

namespace Sys2Proof.Machine

open Sys2Proof.Spec

/-! ### Comparisons -/

theorem Flt.lt_self (x : Flt) : Flt.lt x x = false := by simp [Flt.lt]

theorem Flt.lt_of_isNaN {x y : Flt} (h : Flt.isNaN x = true ∨ Flt.isNaN y = true) : Flt.lt x y = false := by
  rcases h with h | h <;> simp [Flt.lt, h]

/-! ### Results that are no NaN -/

/-- A difference of finite values is finite or overflows (rule R12). -/
theorem Flt.isNaN_sub_finite (nan : Flt) {x y : Flt} (hx : FiniteValue x) (hy : FiniteValue y) :
    Flt.isNaN (Flt.sub nan x y) = false := by
  rw [Flt.sub, Flt.add_eq_round nan hx (Flt.finiteValue_neg.mpr hy)]
  split
  · exact Flt.not_isNaN_of_finiteValue (Flt.finiteValue_zero _)
  · exact Flt.isNaN_round _ _ _

/-- A product is a NaN only by a NaN operand or by an infinity times zero (rule R12). -/
theorem Flt.isNaN_mul_nonzero (nan : Flt) {x y : Flt} (hx : Flt.isNaN x = false) (hy : FiniteValue y)
    (h0 : value y ≠ 0) : Flt.isNaN (Flt.mul nan x y) = false := by
  rcases Flt.classify x with hnan | hinf | hfin
  · exact absurd hnan (by simp [hx])
  · rw [Flt.mul_inf_finite nan hinf hy, if_neg (mt (Flt.value_eq_zero_iff y).mpr h0)]
    exact Flt.not_isNaN_of_isInf ((Flt.isInf_iff _).mpr (Flt.magBits_inf _))
  · rw [Flt.mul_eq_round nan ((Flt.isFinite_iff x).mp hfin) hy]
    exact Flt.isNaN_round _ _ _

/-! ### A spool cycle by the number its count stands for -/

section
variable {α : Type} {restart : Flt → α} {next : Flt → Flt × α} {engine : α} {sp : Spool} (c : LabelConfig) (x : Flt)
  {k : ℕ} (hgood : sp.good = false) (hk : sp.count.toNat = k)
include hk

theorem Spool.count_add_one : sp.count + 1 = BitVec.ofNat 32 (k + 1) := by
  rw [BitVec.ofNat_add, ← hk, BitVec.ofNat_toNat, BitVec.setWidth_eq]
  rfl

theorem Spool.count_ne_zero (hpos : 1 ≤ k) : sp.count ≠ 0 := by
  intro hzero
  have hk0 : 0 = k := by simpa [hzero] using hk
  omega

theorem Spool.threshold_lt_iff (hlt : k < 2 ^ 32 - 1) : Config.spoolThreshold < sp.count + 1 ↔ 10 ≤ k := by
  rw [Spool.count_add_one hk, BitVec.lt_def, BitVec.toNat_ofNat, Nat.mod_eq_of_lt (by omega),
    show Config.spoolThreshold.toNat = 10 from rfl]
  omega

include hgood

theorem spoolCycle_of_le_nine (hpos : 1 ≤ k) (hle : k ≤ 9) :
    spoolCycle restart next engine sp c true x =
      ⟨(next x).2, ⟨false, BitVec.ofNat 32 (k + 1)⟩, (next x).1, bnrFW⟩ := by
  rw [spoolCycle_counts _ _ _ _ _ _ hgood (Spool.count_ne_zero hk hpos)
    (by rw [Spool.threshold_lt_iff hk (by omega)]; omega), Spool.count_add_one hk]

theorem spoolCycle_of_ten_le (hge : 10 ≤ k) (hlt : k < 2 ^ 32 - 1) :
    spoolCycle restart next engine sp c true x =
      ⟨(next x).2, ⟨true, BitVec.ofNat 32 (k + 1)⟩, (next x).1, checkBnrValidity (next x).1 c⟩ := by
  rw [spoolCycle_becomesGood _ _ _ _ _ _ hgood (Spool.count_ne_zero hk (by omega))
    ((Spool.threshold_lt_iff hk hlt).mpr hge), Spool.count_add_one hk]

end

end Sys2Proof.Machine
end

section
/-! PROOFS. The filter commands (rules R231, R240-R253): the registers of an engine, the outputs of a step, and the five
cases of a spool cycle. -/

namespace Sys2Proof.Spec

open Sys2Proof.Machine

/-! ### Writes to an engine and to the outputs -/

/-- Replacing a low-pass engine by one with the same coefficients writes its state registers (rule R80). -/
theorem writes_lp {s : State} {e : ℕ} {l l' : LowPass} (hl : s.lp[e]? = some l) (hconfig : l'.config = l.config) :
    Writes s (s.setLp e l') (lpWrites e l'.prev l'.pre l'.spool.good l'.spool.count) := by
  simp only [LowPass.config, Prod.mk.injEq] at hconfig
  obtain ⟨hk1, hk2⟩ := hconfig
  have hself (x : LpReg) : readReg (s.setLp e l') (.lp e x) = readLp l' x := readAt_set_self hl l' _
  refine ⟨fun p hp => ?_, fun r hr => ?_⟩
  · simp only [lpWrites, pair, List.cons_append, List.nil_append, List.mem_cons, List.not_mem_nil, or_false] at hp
    rcases hp with rfl | rfl | rfl | rfl
    · exact (hself _).trans (half_lo l'.prev)
    · exact (hself _).trans (half_hi l'.prev)
    · rw [num_eq_toNat, num_eq_toNat]
      exact (hself .stat).trans (lpStatWord_eq l')
    · exact hself .spcnt
  · cases r with
    | lp k x =>
      refine readAt_set_keep hl fun hk => ?_
      cases x with
      | k1 h => simp only [readLp, hk1]
      | k2 h => simp only [readLp, hk2]
      | prev h => cases h <;> exact absurd hr (by simp [lpWrites, pair, hk])
      | stat | spcnt => exact absurd hr (by simp [lpWrites, pair, hk])
    | params => simp [readReg, paramsWord]
    | _ => rfl

/-- Replacing a differentiator engine by one with the same coefficients writes its state registers (rule R80). -/
theorem writes_df {s : State} {e : ℕ} {d d' : Diff} (hd : s.df[e]? = some d) (hconfig : d'.config = d.config) :
    Writes s (s.setDf e d') (dfWrites e d'.pin d'.pout d'.spool.good d'.spool.count) := by
  simp only [Diff.config, Prod.mk.injEq] at hconfig
  obtain ⟨hk1, hfs, hul, hll, hud, hld⟩ := hconfig
  have hself (x : DfReg) : readReg (s.setDf e d') (.df e x) = readDf d' x := readAt_set_self hd d' _
  refine ⟨fun p hp => ?_, fun r hr => ?_⟩
  · simp only [dfWrites, pair, List.cons_append, List.nil_append, List.mem_cons, List.not_mem_nil, or_false] at hp
    rcases hp with rfl | rfl | rfl | rfl | rfl | rfl
    · exact (hself _).trans (half_lo d'.pin)
    · exact (hself _).trans (half_hi d'.pin)
    · exact (hself _).trans (half_lo d'.pout)
    · exact (hself _).trans (half_hi d'.pout)
    · rw [num_eq_toNat]
      exact (hself .stat).trans (dfStatWord_eq d')
    · exact hself .spcnt
  · cases r with
    | df k x =>
      refine readAt_set_keep hd fun hk => ?_
      cases x with
      | pin h | pout h => cases h <;> exact absurd hr (by simp [dfWrites, pair, hk])
      | stat | spcnt => exact absurd hr (by simp [dfWrites, pair, hk])
      | _ => simp only [readDf, hk1, hfs, hul, hll, hud, hld]
    | params => simp [readReg, paramsWord]
    | _ => rfl

/-- An output value is shown by the two halves of OUTA (rules R33, R75). -/
theorem writes_outa (s : State) (y : Flt) : Writes s { s with outa := y } (pair .outa y) := by
  refine ⟨fun p hp => ?_, fun r hr => ?_⟩
  · simp only [pair, List.mem_cons, List.not_mem_nil, or_false] at hp
    rcases hp with rfl | rfl
    · exact half_lo y
    · exact half_hi y
  · cases r with
    | outa h => cases h <;> exact absurd hr (by simp [pair])
    | _ => rfl

/-- Flags with an SSM and no SDI (rule R33). -/
theorem outfSsm_zero (ssm : BitVec 2) : outfSsm ssm 0 = BitVec.ofNat 32 ssm.toNat := by
  rw [outfSsm_eq]
  rfl

/-- The value and the SSM that a spool cycle puts out (rules R252, R253). -/
theorem writes_outa_outf (s : State) (y : Flt) (ssm : BitVec 2) :
    Writes s { s with outa := y, outf := outfSsm ssm 0 } (pair .outa y ++ [(.outf, BitVec.ofNat 32 ssm.toNat)]) := by
  rw [← outfSsm_zero]
  exact (writes_outa s y).append (writes_outf _ _) (by simp [pair])

/-- Free draws that are used up show in no register (log 6). -/
theorem Writes.draw {s t : State} {ws : List (Reg × Word)} (h : Writes s t ws) (k : ℕ) : Writes s (t.draw k) ws :=
  h.congr (fun _ => rfl) (readReg_draw t k)

/-! ### The commands on a low-pass engine that exists -/

section
variable {s : State} {e : ℕ} {l : LowPass} (hlocked : s.locked = true) (hl : s.lp[e]? = some l)
include hlocked hl

theorem exec_lprst : exec (.lprst e) s = .next ((s.setLp e l.clear).finish .success (Instr.lprst e).opc) := by
  simp only [exec, execLprst, withLp_run _ s e l _ hlocked hl]

theorem exec_lppre :
    exec (.lppre e) s = .next ((s.setLp e (l.preload s.opa)).finish .success (Instr.lppre e).opc) := by
  simp only [exec, execLppre, withLp_run _ s e l _ hlocked hl]

theorem exec_lpstep :
    exec (.lpstep e) s =
      .next ((State.draw { s.setLp e (l.next s.nan s.opa).2 with outa := (l.next s.nan s.opa).1 } 3).finish .success
        (Instr.lpstep e).opc) := by
  simp only [exec, execLpstep, withLp_run _ s e l _ hlocked hl]

variable {n : ℕ} {c : LabelConfig} (hentry : EntryIs s n c) {valid : Bool} {r : SpoolOut LowPass}
  (hr : spoolCycle l.clear.preload (l.next s.nan) l l.spool c valid s.opa = r)
include hentry hr

theorem exec_lpspool :
    exec (.lpspool e n valid) s =
      .next ((State.draw
        { s.setLp e { r.engine with spool := r.spool } with outa := r.y, outf := outfSsm r.ssm 0 } 3).finish .success
          (Instr.lpspool e n valid).opc) := by
  simp only [exec, execLpspool, withLp_run _ s e l _ hlocked hl, withEntry_of_entryIs hlocked hentry, hr]

/-- LPSPOOL writes what the cycle gives (rule R252). -/
theorem effect_lpspool :
    Effect (.lpspool e n valid) s
      (lpWrites e r.engine.prev r.engine.pre r.spool.good r.spool.count ++ pair .outa r.y ++
        [(.outf, BitVec.ofNat 32 r.ssm.toNat), res 0 0x34]) := by
  have hconfig : r.engine.config = l.config := hr ▸ l.config_spoolCycle s.nan l.spool c valid s.opa
  have hengine := writes_lp (l' := { r.engine with spool := r.spool }) hl hconfig
  have houtputs := (hengine.append (writes_outa_outf _ r.y r.ssm) (by simp [lpWrites, pair])).draw 3
  have hws := houtputs.finish_res (by simp [lpWrites, pair]) .success (Instr.lpspool e n valid).opc
  exact ⟨_, exec_lpspool hlocked hl hentry hr, hws, rfl, rfl, rfl, rfl, rfl, List.length_set, rfl⟩

end

/-! ### The commands on a differentiator engine that exists -/

section
variable {s : State} {e : ℕ} {d : Diff} (hlocked : s.locked = true) (hd : s.df[e]? = some d)
include hlocked hd

theorem exec_dfrst : exec (.dfrst e) s = .next ((s.setDf e d.clear).finish .success (Instr.dfrst e).opc) := by
  simp only [exec, execDfrst, withDf_run _ s e d _ hlocked hd]

theorem exec_dfpre :
    exec (.dfpre e) s = .next ((s.setDf e (d.preload s.opa)).finish .success (Instr.dfpre e).opc) := by
  simp only [exec, execDfpre, withDf_run _ s e d _ hlocked hd]

theorem exec_dfstep :
    exec (.dfstep e) s =
      .next ((State.draw { s.setDf e (d.next s.nan s.opa).2 with outa := (d.next s.nan s.opa).1 } 2).finish .success
        (Instr.dfstep e).opc) := by
  simp only [exec, execDfstep, withDf_run _ s e d _ hlocked hd]

variable {n : ℕ} {c : LabelConfig} (hentry : EntryIs s n c) {valid : Bool} {r : SpoolOut Diff}
  (hr : spoolCycle d.clear.preload (d.next s.nan) d d.spool c valid s.opa = r)
include hentry hr

theorem exec_dfspool :
    exec (.dfspool e n valid) s =
      .next ((State.draw
        { s.setDf e { r.engine with spool := r.spool } with outa := r.y, outf := outfSsm r.ssm 0 } 2).finish .success
          (Instr.dfspool e n valid).opc) := by
  simp only [exec, execDfspool, withDf_run _ s e d _ hlocked hd, withEntry_of_entryIs hlocked hentry, hr]

/-- DFSPOOL writes what the cycle gives (rule R253). -/
theorem effect_dfspool :
    Effect (.dfspool e n valid) s
      (dfWrites e r.engine.pin r.engine.pout r.spool.good r.spool.count ++ pair .outa r.y ++
        [(.outf, BitVec.ofNat 32 r.ssm.toNat), res 0 0x3C]) := by
  have hconfig : r.engine.config = d.config := hr ▸ d.config_spoolCycle s.nan d.spool c valid s.opa
  have hengine := writes_df (d' := { r.engine with spool := r.spool }) hd hconfig
  have houtputs := (hengine.append (writes_outa_outf _ r.y r.ssm) (by simp [dfWrites, pair])).draw 2
  have hws := houtputs.finish_res (by simp [dfWrites, pair]) .success (Instr.dfspool e n valid).opc
  exact ⟨_, exec_dfspool hlocked hd hentry hr, hws, rfl, rfl, rfl, rfl, rfl, rfl, List.length_set⟩

end

/-- Settles O50: each command replaces the engine and leaves its spool state as it is. -/
theorem engineResetAndPreload : Obligations.EngineResetAndPreload := by
  unfold Obligations.EngineResetAndPreload
  refine ⟨fun s e l hlocked hl => ⟨?_, ?_⟩, fun s e d hlocked hd => ⟨?_, ?_⟩⟩
  · exact ⟨_, exec_lprst hlocked hl,
      (writes_lp (l' := l.clear) hl rfl).finish_res (by simp [lpWrites, pair]) .success (Instr.lprst e).opc,
      rfl, rfl, rfl, rfl, rfl, List.length_set, rfl⟩
  · exact ⟨_, exec_lppre hlocked hl,
      (writes_lp (l' := l.preload s.opa) hl rfl).finish_res (by simp [lpWrites, pair]) .success (Instr.lppre e).opc,
      rfl, rfl, rfl, rfl, rfl, List.length_set, rfl⟩
  · exact ⟨_, exec_dfrst hlocked hd,
      (writes_df (d' := d.clear) hd rfl).finish_res (by simp [dfWrites, pair]) .success (Instr.dfrst e).opc,
      rfl, rfl, rfl, rfl, rfl, rfl, List.length_set⟩
  · exact ⟨_, exec_dfpre hlocked hd,
      (writes_df (d' := d.preload s.opa) hd rfl).finish_res (by simp [dfWrites, pair]) .success (Instr.dfpre e).opc,
      rfl, rfl, rfl, rfl, rfl, rfl, List.length_set⟩

/-! ### The outputs of a step -/

theorem allNaN_nan (s : State) : AllNaN s.nan := fun k => Flt.isNaN_toNaN (Config.nanDraw (s.free + k))

theorem lpOutput_of_isNaN (n : ℕ → Flt) {l : LowPass} {x : Flt} (hn : AllNaN n)
    (h : Flt.isNaN l.prev = true ∨ Flt.isNaN x = true) : lpOutput n l x = n 2 := by
  refine Flt.add_nan _ _ _ ?_
  rcases h with h | h
  · left
    rw [Flt.mul_nan _ _ _ (.inr h)]
    exact hn 0
  · right
    rw [Flt.mul_nan _ _ _ (.inr h)]
    exact hn 1

/-- The output of the model's step is the only one that the cases of rule R247 allow. -/
theorem dfOutput_iff {n : ℕ → Flt} {d : Diff} {x y : Flt} : DfOutput n d x y ↔ y = (d.next n x).1 := by
  simp only [DfOutput, Diff.next, Flt.clamp, Bool.or_eq_true]
  split_ifs with houtside hlow hhigh
  · simp [houtside]
  · simp [houtside, hlow]
  · simp [houtside, hlow, hhigh]
  · simp [houtside, hlow, hhigh]

theorem dfOutput_of_isNaN {n : ℕ → Flt} {d : Diff} {x y : Flt} (hn : AllNaN n)
    (h : Flt.isNaN d.pin = true ∨ Flt.isNaN x = true) (hy : DfOutput n d x y) : y = n 1 := by
  have hdelta : Flt.sub (n 0) x d.pin = n 0 := Flt.sub_nan _ _ _ h.symm
  have hraw : Flt.mul (n 1) (n 0) d.fs = n 1 := Flt.mul_nan _ _ _ (.inl (hn 0))
  simp only [DfOutput, hdelta, hraw, Flt.lt_of_isNaN (.inl (hn _)), Flt.lt_of_isNaN (.inr (hn _))] at hy
  simpa using hy

/-- Settles O51: the model's draws are the NaNs, and the output is the formula with them. -/
theorem lowPassStep : Obligations.LowPassStep := by
  unfold Obligations.LowPassStep
  refine fun s e l hlocked hl => ⟨s.nan, allNaN_nan s, ?_, fun h => ?_⟩
  · have houtput := ((writes_lp (l' := (l.next s.nan s.opa).2) hl rfl).append
      (writes_outa _ (l.next s.nan s.opa).1) (by simp [lpWrites, pair])).draw 3
    exact ⟨_, exec_lpstep hlocked hl,
      houtput.finish_res (by simp [lpWrites, pair]) .success (Instr.lpstep e).opc,
      rfl, rfl, rfl, rfl, rfl, List.length_set, rfl⟩
  · rw [lpOutput_of_isNaN s.nan (allNaN_nan s) h]
    exact allNaN_nan s 2

/-- Settles O52: the model's draws are the NaNs, and the output is the one that the cases allow. -/
theorem differentiatorStep : Obligations.DifferentiatorStep := by
  unfold Obligations.DifferentiatorStep
  refine fun s e d hlocked hd => ⟨s.nan, allNaN_nan s, fun y hy => ⟨?_, fun h => ?_⟩⟩
  · obtain rfl := dfOutput_iff.mp hy
    have houtput := ((writes_df (d' := (d.next s.nan s.opa).2) hd rfl).append
      (writes_outa _ (d.next s.nan s.opa).1) (by simp [dfWrites, pair])).draw 2
    exact ⟨_, exec_dfstep hlocked hd,
      houtput.finish_res (by simp [dfWrites, pair]) .success (Instr.dfstep e).opc,
      rfl, rfl, rfl, rfl, rfl, rfl, List.length_set⟩
  · rw [dfOutput_of_isNaN (allNaN_nan s) h hy]
    exact allNaN_nan s 1

/-! ### The five cases of a spool cycle -/

/-- Settles O54: LPSPOOL writes what the cycle gives, in each case of the cycle. -/
theorem lowPassSpoolCycle : Obligations.LowPassSpoolCycle := by
  unfold Obligations.LowPassSpoolCycle
  intro s e n l c hlocked hl hentry
  refine ⟨?invalid, fun hgood hzero => ?first, s.nan, allNaN_nan s, fun k hgood hk hpos hle => ?spooling,
    fun ssm hssm => ⟨fun k hgood hk hge hlt => ?becomesGood, fun hgood => ?good⟩⟩
  case invalid => exact (effect_lpspool hlocked hl hentry (spoolCycle_invalid ..) :)
  case first => exact (effect_lpspool hlocked hl hentry (spoolCycle_first _ _ _ _ _ _ hgood hzero) :)
  case spooling => exact (effect_lpspool hlocked hl hentry (spoolCycle_of_le_nine c _ hgood hk hpos hle) :)
  all_goals obtain rfl := toNat_checkBnrValidity hssm
  case becomesGood => exact (effect_lpspool hlocked hl hentry (spoolCycle_of_ten_le c _ hgood hk hge hlt) :)
  case good =>
    have heffect := effect_lpspool hlocked hl hentry (spoolCycle_good _ _ _ _ _ _ hgood)
    rwa [hgood] at heffect

/-- Settles O55: DFSPOOL writes what the cycle gives, in each case of the cycle. -/
theorem differentiatorSpoolCycle : Obligations.DifferentiatorSpoolCycle := by
  unfold Obligations.DifferentiatorSpoolCycle
  intro s e n d c hlocked hd hentry
  refine ⟨?invalid, fun hgood hzero => ?first, s.nan, allNaN_nan s, fun y hy =>
    ⟨fun k hgood hk hpos hle => ?spooling, fun ssm hssm =>
      ⟨fun k hgood hk hge hlt => ?becomesGood, fun hgood => ?good⟩⟩⟩
  case invalid => exact (effect_dfspool hlocked hd hentry (spoolCycle_invalid ..) :)
  case first => exact (effect_dfspool hlocked hd hentry (spoolCycle_first _ _ _ _ _ _ hgood hzero) :)
  all_goals obtain rfl := dfOutput_iff.mp hy
  case spooling => exact (effect_dfspool hlocked hd hentry (spoolCycle_of_le_nine c _ hgood hk hpos hle) :)
  all_goals obtain rfl := toNat_checkBnrValidity hssm
  case becomesGood => exact (effect_dfspool hlocked hd hentry (spoolCycle_of_ten_le c _ hgood hk hge hlt) :)
  case good =>
    have heffect := effect_dfspool hlocked hd hentry (spoolCycle_good _ _ _ _ _ _ hgood)
    rwa [hgood] at heffect

end Sys2Proof.Spec
end

section
/-! PROOFS. Valid spool cycles one after the other (rule R251, laws 1 and 3), for both engines. -/

namespace Sys2Proof.Spec

open Sys2Proof.Machine

/-! ### Repeated commands -/

/-- What holds at first and what every run of the command carries on holds after any number of runs. -/
theorem repeatWith_induction {i : Instr} {x : ℕ → Flt} {s : State} {P : ℕ → State → Prop} (hzero : P 0 s)
    (hsucc : ∀ k u, P k u → ∃ t, exec i { u with opa := x (k + 1) } = .next t ∧ P (k + 1) t) (k : ℕ) :
    ∃ t, repeatWith i x k s = some t ∧ P k t := by
  induction k with
  | zero => exact ⟨s, rfl, hzero⟩
  | succ k ih =>
    obtain ⟨u, hu, hPu⟩ := ih
    obtain ⟨t, ht, hPt⟩ := hsucc k u hPu
    exact ⟨t, by simp only [repeatWith, hu, ht], hPt⟩

/-! ### The spool state and the outputs after k valid cycles -/

/-- The spool state `sp` and the outputs `y` and `flags` after `k` valid cycles on an entry `c`, from a count of 0. -/
structure AfterValidCycles (c : LabelConfig) (k : ℕ) (sp : Spool) (y : Flt) (flags : Word) : Prop where
  count : sp.count.toNat = min k 11
  good : sp.good = true ↔ 11 ≤ k
  first : k = 1 → y = 0
  warning : 0 < k → k ≤ 10 → flags = 0
  validity : 11 ≤ k → ∀ ssm, ValiditySsm y c ssm → flags = BitVec.ofNat 32 ssm

theorem afterValidCycles_zero (c : LabelConfig) (y : Flt) (flags : Word) :
    AfterValidCycles c 0 ⟨false, 0⟩ y flags :=
  ⟨rfl, by simp, by simp, by simp, by simp⟩

theorem outfSsm_bnrFW : outfSsm bnrFW 0 = 0 := by decide

theorem outfSsm_checkBnrValidity {y : Flt} {c : LabelConfig} {ssm : ℕ} (h : ValiditySsm y c ssm) :
    outfSsm (checkBnrValidity y c) 0 = BitVec.ofNat 32 ssm := by
  rw [outfSsm_zero, toNat_checkBnrValidity h]

/-- One more valid cycle: the first, one that counts, the eleventh, or one of a good engine (rule R250). -/
theorem AfterValidCycles.succ {α : Type} {restart : Flt → α} {next : Flt → Flt × α} {engine : α}
    {c : LabelConfig} {k : ℕ} {sp : Spool} {y : Flt} {flags : Word} (h : AfterValidCycles c k sp y flags) (x : Flt)
    {r : SpoolOut α} (hr : spoolCycle restart next engine sp c true x = r) :
    AfterValidCycles c (k + 1) r.spool r.y (outfSsm r.ssm 0) := by
  obtain ⟨hcount, hgood, -, -, -⟩ := h
  by_cases hlate : 11 ≤ k
  · obtain rfl := (spoolCycle_good _ _ _ _ _ _ (hgood.mpr hlate)).symm.trans hr
    exact ⟨hcount.trans (by omega), hgood.trans (by omega), by omega, by omega, fun _ _ => outfSsm_checkBnrValidity⟩
  · have hbad : sp.good = false := Bool.eq_false_iff.mpr (mt hgood.mp hlate)
    have hk : sp.count.toNat = k := by omega
    have hnext : (BitVec.ofNat 32 (k + 1)).toNat = min (k + 1) 11 := by
      rw [BitVec.toNat_ofNat]
      omega
    obtain rfl | hpos := Nat.eq_zero_or_pos k
    · obtain rfl := (spoolCycle_first _ _ _ _ _ _ hbad (BitVec.eq_of_toNat_eq hk)).symm.trans hr
      exact ⟨rfl, by simp, fun _ => rfl, fun _ _ => outfSsm_bnrFW, by omega⟩
    · obtain hle | rfl : k ≤ 9 ∨ k = 10 := by omega
      · obtain rfl := (spoolCycle_of_le_nine c x hbad hk hpos hle).symm.trans hr
        exact ⟨hnext, iff_of_false (by simp) (by omega), by omega, fun _ _ => outfSsm_bnrFW, by omega⟩
      · obtain rfl := (spoolCycle_of_ten_le c x hbad hk le_rfl (by decide)).symm.trans hr
        exact ⟨hnext, by simp, by omega, by omega, fun _ _ => outfSsm_checkBnrValidity⟩

/-! ### Both engines -/

/-- In RUN mode, low-pass engine e is as after `k` valid cycles on entry n, which is `c`. -/
def LpAfterValidCycles (e n : ℕ) (c : LabelConfig) (k : ℕ) (u : State) : Prop :=
  u.locked = true ∧ EntryIs u n c ∧ ∃ l, u.lp[e]? = some l ∧ AfterValidCycles c k l.spool u.outa u.outf

/-- In RUN mode, differentiator engine e is as after `k` valid cycles on entry n, which is `c`. -/
def DfAfterValidCycles (e n : ℕ) (c : LabelConfig) (k : ℕ) (u : State) : Prop :=
  u.locked = true ∧ EntryIs u n c ∧ ∃ d, u.df[e]? = some d ∧ AfterValidCycles c k d.spool u.outa u.outf

theorem LpAfterValidCycles.succ {e n : ℕ} {c : LabelConfig} {k : ℕ} {u : State}
    (h : LpAfterValidCycles e n c k u) (x : Flt) :
    ∃ t, exec (.lpspool e n true) { u with opa := x } = .next t ∧ LpAfterValidCycles e n c (k + 1) t := by
  obtain ⟨hlocked, hentry, l, hl, hafter⟩ := h
  exact ⟨_, exec_lpspool (s := { u with opa := x }) hlocked hl hentry rfl, hlocked, hentry, _,
    List.getElem?_set_self (List.getElem?_eq_some_iff.mp hl).1, hafter.succ x rfl⟩

theorem DfAfterValidCycles.succ {e n : ℕ} {c : LabelConfig} {k : ℕ} {u : State}
    (h : DfAfterValidCycles e n c k u) (x : Flt) :
    ∃ t, exec (.dfspool e n true) { u with opa := x } = .next t ∧ DfAfterValidCycles e n c (k + 1) t := by
  obtain ⟨hlocked, hentry, d, hd, hafter⟩ := h
  exact ⟨_, exec_dfspool (s := { u with opa := x }) hlocked hd hentry rfl, hlocked, hentry, _,
    List.getElem?_set_self (List.getElem?_eq_some_iff.mp hd).1, hafter.succ x rfl⟩

/-- Settles O56: an induction on the number of cycles, the same for both engines. -/
theorem elevenValidCyclesMakeAnEngineGood : Obligations.ElevenValidCyclesMakeAnEngineGood := by
  unfold Obligations.ElevenValidCyclesMakeAnEngineGood
  constructor
  · intro s e n l c x k hlocked hl hentry hspool hk
    have hzero : LpAfterValidCycles e n c 0 s := ⟨hlocked, hentry, l, hl, hspool ▸ afterValidCycles_zero ..⟩
    obtain ⟨u, hu, -, -, l', hl', h⟩ := repeatWith_induction hzero (fun k _ h => h.succ (x (k + 1))) k
    exact ⟨u, l', hu, hl', h.count, h.good, h.first, h.warning hk, h.validity⟩
  · intro s e n d c x k hlocked hd hentry hspool hk
    have hzero : DfAfterValidCycles e n c 0 s := ⟨hlocked, hentry, d, hd, hspool ▸ afterValidCycles_zero ..⟩
    obtain ⟨u, hu, -, -, d', hd', h⟩ := repeatWith_induction hzero (fun k _ h => h.succ (x (k + 1))) k
    exact ⟨u, d', hu, hd', h.count, h.good, h.first, h.warning hk, h.validity⟩

end Sys2Proof.Spec
end

section
/-! PROOFS. The differentiator's output is bounded (rule R255, law 2): a finite difference times a finite nonzero rate is
no NaN, and every case of the output then lies between the limits. -/

namespace Sys2Proof.Spec

open Sys2Proof.Machine

/-! ### The bound -/

/-- `y` is no NaN and lies between the limits of the engine. -/
def BetweenLimits (d : Diff) (y : Flt) : Prop :=
  Flt.isNaN y = false ∧ Flt.lt y d.ll = false ∧ Flt.lt d.ul y = false

/-- Each output that rule R247 allows is the previous one, a limit, or a product between the limits. -/
theorem DfOutput.betweenLimits {n : ℕ → Flt} {d : Diff} {x y : Flt} (h : DfOutput n d x y)
    (hpout : BetweenLimits d d.pout) (hll : Flt.isNaN d.ll = false) (hul : Flt.isNaN d.ul = false)
    (hlimits : Flt.lt d.ul d.ll = false)
    (hraw : Flt.isNaN (Flt.mul (n 1) (Flt.sub (n 0) x d.pin) d.fs) = false) : BetweenLimits d y := by
  rcases h with ⟨-, rfl⟩ | ⟨-, ⟨-, rfl⟩ | ⟨-, -, rfl⟩ | ⟨hlow, hhigh, rfl⟩⟩
  · exact hpout
  · exact ⟨hll, Flt.lt_self _, hlimits⟩
  · exact ⟨hul, hlimits, Flt.lt_self _⟩
  · exact ⟨hraw, hlow, hhigh⟩

/-- Settles O57: the scaled difference is no NaN, so the output of every case is between the limits. -/
theorem differentiatorOutputIsBounded : Obligations.DifferentiatorOutputIsBounded := by
  unfold Obligations.DifferentiatorOutputIsBounded
  intro s e d hlocked hd hopa hpin hfs hrate hll hul hpout hlimits hlow hhigh
  have hraw := Flt.isNaN_mul_nonzero (s.nan 1) (Flt.isNaN_sub_finite (s.nan 0) hopa hpin) hfs hrate
  exact ⟨_, exec_dfstep hlocked hd,
    (dfOutput_iff.mpr rfl).betweenLimits ⟨hpout, hlow, hhigh⟩ hll hul hlimits hraw⟩

end Sys2Proof.Spec
end

section
/-! PROOFS. The common frame (rules R271-R274): an illegal word, a command in CONFIG mode and a bad index end at once,
the word with CMDERR set, the others with RESULT written and nothing else. -/

namespace Sys2Proof.Spec

open Sys2Proof.Machine

/-! ### Illegal words -/

theorem decode_of_illegal {c : Word} (h : Illegal c) : ∃ e, decode c = .error e := by
  cases hdecode : decode c with
  | error e => exact ⟨e, rfl⟩
  | ok i =>
    obtain ⟨-, rfl⟩ := wellFormed_and_encode_of_decode hdecode
    obtain ⟨r, hr, hselects, -⟩ := exists_row_selects_encode i
    exact absurd hselects (h r hr)

theorem command_of_illegal {c : Word} (h : Illegal c) (s : State) : command c s = .next (s.illegalCommand c) := by
  obtain ⟨e, he⟩ := decode_of_illegal h
  rw [command, he]

/-- A write to CMD is a legal access, answered by what the word does (rules R72, R79). -/
theorem access_cmd {c : Word} {s t : State} (h : command c s = .next t) :
    access command (.write cmdAddr 4 c) s = .next (answerCommand t) := by
  simp [access, (accessOk_iff cmdAddr 4).mpr ⟨rfl, by decide⟩, commandWrite, h]

/-- RESULT of an illegal word, with its low byte as a number (rule R271). -/
theorem resultWord_lowByte (code : ResultCode) (c : Word) :
    resultWord code (c.extractLsb' 0 8) = BitVec.ofNat 32 (code.code.toNat + 256 * (c.toNat % 256)) := by
  rw [resultWord_eq, BitVec.extractLsb'_toNat, Nat.shiftRight_zero]

/-! ### CMDERR -/

theorem configWrite_cmdErr {s s' : State} (h : s'.cmdErr = s.cmdErr) : (configWrite s s').cmdErr = s.cmdErr := by
  unfold configWrite
  split
  · rfl
  · exact h

theorem writeReg_cmdErr (s : State) {r : Reg} (hr : r ≠ .status) (v : Word) : (writeReg s r v).cmdErr = s.cmdErr := by
  cases r with
  | status => exact absurd rfl hr
  | gnum g | gmaxbf g | lp e r | df e r | ct t r | entry g j r => exact configWrite_cmdErr rfl
  | _ => rfl

/-- Of the registers only STATUS clears CMDERR, where bit 2 of the value is 1 (rule R35). -/
theorem busWrite_clears_cmdErr {s : State} {a : BitVec 16} {v : Word} (hset : s.cmdErr = true)
    (hclear : (busWrite s a v).cmdErr = false) : a = 0x000C ∧ v.getLsbD 2 = true := by
  unfold busWrite at hclear
  split at hclear
  case h_1 r hreg =>
    by_cases hr : r = .status
    · subst hr
      obtain ⟨-, haddress⟩ := addressOf_of_regAt hreg
      exact ⟨BitVec.eq_of_toNat_eq haddress.symm, by simpa [writeReg, hset] using hclear⟩
    · rw [writeReg_cmdErr s hr, hset] at hclear
      cases hclear
  case h_2 =>
    rw [hset] at hclear
    cases hclear

theorem command_keeps_cmdErr {c : Word} {s t : State} (h : command c s = .next t) (hset : s.cmdErr = true) :
    t.cmdErr = true := by
  rcases command_cases c s t h with ⟨i, -, hexec⟩ | ⟨e, -, rfl⟩
  · obtain ⟨hcmdErr, -⟩ := exec_keeps i s t hexec
    rw [hcmdErr, hset]
  · rfl

/-- Of the host's transactions only a write of 1 to STATUS bit 2 clears CMDERR. -/
theorem access_clears_cmdErr {x : Txn} {s t : State} (h : access command x s = .next t) (hset : s.cmdErr = true)
    (hclear : t.cmdErr = false) : ∃ v : Word, x = .write 0x000C 4 v ∧ v.getLsbD 2 = true := by
  rcases access_cases x s t h with rfl | ⟨a, -, rfl⟩ | ⟨a, v, rfl, -, rfl⟩ | ⟨c, u, -, hcommand, rfl⟩
  · exact absurd (hset.symm.trans hclear) (by decide)
  · exact absurd (hset.symm.trans hclear) (by decide)
  · obtain ⟨rfl, hv⟩ := busWrite_clears_cmdErr hset hclear
    exact ⟨v, rfl, hv⟩
  · exact absurd ((command_keeps_cmdErr hcommand hset).symm.trans hclear) (by decide)

theorem drainTurn_cmdErr (s : State) (d : DrainProgress) : (s.drainTurn d).cmdErr = s.cmdErr := by
  obtain ⟨-, -, hcmdErr, -⟩ := drainIter_keeps d s
  exact hcmdErr

/-- Of the moves of a step only a reset and a write of 1 to STATUS bit 2 clear CMDERR. -/
theorem step_clears_cmdErr {s t : State} (hstep : step s = .next t) (hset : s.cmdErr = true)
    (hclear : t.cmdErr = false) :
    ∃ rest, s.agenda = .reset :: rest ∨
      ∃ v : Word, s.agenda = .host (.write 0x000C 4 v) :: rest ∧ v.getLsbD 2 = true := by
  have hkept {p : Prop} (h : t.cmdErr = s.cmdErr) : p := absurd (hset.symm.trans (h.symm.trans hclear)) (by decide)
  rcases step_cases s t hstep with ⟨d, -, hdrain⟩ | ⟨-, -, rfl⟩ | ⟨rest, -, -, rfl⟩ | ⟨x, rest, -, hagenda, haccess⟩ |
    ⟨n, rest, -, rfl⟩ | ⟨g, ws, rest, -, rfl⟩ | ⟨rest, hagenda, -⟩
  · rcases hdrain with ⟨-, rfl⟩ | ⟨rest, -, rfl⟩
    · exact hkept (drainTurn_cmdErr s d)
    · exact hkept (drainTurn_cmdErr _ d)
  · exact hkept rfl
  · exact hkept rfl
  · obtain ⟨v, rfl, hv⟩ := access_clears_cmdErr haccess hset hclear
    exact ⟨rest, .inr ⟨v, hagenda, hv⟩⟩
  · exact hkept rfl
  · exact hkept rfl
  · exact ⟨rest, .inl hagenda⟩

/-- Settles O6: the word does not decode, and a step is followed move by move to what clears CMDERR. -/
theorem illegalWordsEndIllegalCommand : Obligations.IllegalWordsEndIllegalCommand := by
  unfold Obligations.IllegalWordsEndIllegalCommand
  refine ⟨fun s rest c hdrain hagenda hillegal => ?_, fun s t => step_clears_cmdErr⟩
  rw [step_host hdrain hagenda]
  refine (access_cmd (command_of_illegal hillegal _)).trans ?_
  rw [answerCommand_eq, State.illegalCommand_drain, if_pos hdrain, State.illegalCommand, resultWord_lowByte]
  rfl

/-! ### Commands that end at once -/

/-- Ending a command, with the code and the opcode as numbers (rules R34, R270). -/
theorem finish_opc_eq (s : State) (code : ResultCode) (i : Instr) :
    s.finish code i.opc = { s with result := BitVec.ofNat 32 (code.code.toNat + 256 * opcode i) } := by
  rw [State.finish, resultWord_eq, opcode, encode_toNat_mod]

/-- In CONFIG mode the frame answers for every command but NOP and LOCK (rule R272). -/
theorem exec_of_config {i : Instr} {s : State} (hnop : i ≠ .nop) (hlock : i ≠ .lock) (hlocked : s.locked = false) :
    exec i s = .next (s.finish .notLocked i.opc) := by
  cases i with
  | nop => exact absurd rfl hnop
  | lock => exact absurd rfl hlock
  | _ => exact congrArg Host.Outcome.next (ifLocked_config _ s _ hlocked)

/-- Settles O16: the frame's answer, with the opcode as the command word has it. -/
theorem commandsNeedALockedConfiguration : Obligations.CommandsNeedALockedConfiguration := by
  unfold Obligations.CommandsNeedALockedConfiguration
  intro i s hnop hlock hlocked
  rw [exec_of_config hnop hlock hlocked, finish_opc_eq]
  rfl

section
variable (i : Instr) {s : State} (hlocked : s.locked = true)
include hlocked

/-- An index beyond the list ends InvalidArgument (rule R273). -/
theorem ifLocked_withIndex_of_length_le {α : Type} {l : List α} {k : ℕ} (h : l.length ≤ k) (body : α → State) :
    ifLocked i s (withIndex i s l k body) = s.finish .invalidArgument i.opc := by
  rw [ifLocked_run i s _ hlocked, withIndex, List.getElem?_eq_none h]

/-- A table entry that does not exist or is disabled ends InvalidArgument (rule R273). -/
theorem withEntry_of_not_entryIs {t : ℕ} (h : ∀ c, ¬ EntryIs s t c) (body : LabelConfig → State) :
    withEntry i t s body = s.finish .invalidArgument i.opc := by
  have hnone : s.entry t = none :=
    Option.eq_none_iff_forall_ne_some.mpr fun c hc => h c ((entry_eq_some s t c).mp hc)
  rw [withEntry, ifLocked_run i s _ hlocked, hnone]

/-- The same for a command that also has an engine operand: the order of the two checks does not show. -/
theorem ifLocked_withIndex_withEntry {α : Type} (l : List α) (k : ℕ) {t : ℕ} (h : ∀ c, ¬ EntryIs s t c)
    (body : α → LabelConfig → State) :
    ifLocked i s (withIndex i s l k fun x => withEntry i t s (body x)) = s.finish .invalidArgument i.opc := by
  rw [ifLocked_run i s _ hlocked, withIndex]
  split
  · exact withEntry_of_not_entryIs i hlocked h _
  · rfl

end

/-- In RUN mode a bad index ends InvalidArgument (rule R273). -/
theorem exec_of_badIndex {i : Instr} {s : State} (hlocked : s.locked = true) (h : BadIndex s i) :
    exec i s = .next (s.finish .invalidArgument i.opc) := by
  cases i with
  | nop | lock => exact h.elim
  | dec t | enc t ssm sdi | chkv t => exact congrArg Host.Outcome.next (withEntry_of_not_entryIs _ hlocked h _)
  | rxw g | drain g | tick g | getd g label | getw g octal | lprst e | lppre e | lpstep e | dfrst e | dfpre e
  | dfstep e =>
    exact congrArg Host.Outcome.next (ifLocked_withIndex_of_length_le _ hlocked h _)
  | lpspool e t valid | dfspool e t valid =>
    rcases h with h | h
    · exact congrArg Host.Outcome.next (ifLocked_withIndex_of_length_le _ hlocked h _)
    · exact congrArg Host.Outcome.next (ifLocked_withIndex_withEntry _ hlocked _ e h _)

/-- Settles O17: the missing index answers for the command, with the opcode as the command word has it. -/
theorem badIndicesEndInvalidArgument : Obligations.BadIndicesEndInvalidArgument := by
  unfold Obligations.BadIndicesEndInvalidArgument
  intro i s hlocked hbad
  rw [exec_of_badIndex hlocked hbad, finish_opc_eq]
  rfl

end Sys2Proof.Spec
end

section
/-! PROOFS. How a command ends (rules R270, R275, R280): with which code, and what a command that fails has written. -/

namespace Sys2Proof.Spec

open Sys2Proof.Machine

/-! ### The ends of a command -/

/-- The ways in which a command that runs on `s` can end. -/
inductive CommandEnd (i : Instr) (s : State) : State → Prop
  /-- Only RESULT is written: every failure but the next two. -/
  | onlyResult (code : ResultCode) : CommandEnd i s (s.finish code i.opc)
  /-- LOCK refuses the configuration (rule R131). -/
  | refusedLock (e : Word) (hi : i = .lock) :
    CommandEnd i s ({ s with cfgErr := true, errinfo := e }.finish .invalidArgument i.opc)
  /-- GETW finds no entry (rule R225). -/
  | absentWord {g : ℕ} {octal : BitVec 8} (hi : i = .getw g octal) :
    CommandEnd i s (State.finish { s with outw := 0, outf := 0 } .noMatchingLabel i.opc)
  /-- The command takes effect, and clips at most (rule R161). -/
  | effective (u : State) (code : ResultCode) (hcode : code.code.toNat < 2) : CommandEnd i s (u.finish code i.opc)
  /-- A DRAIN takes its first iteration (rule R205). -/
  | iteration {g : ℕ} (hi : i = .drain g) : CommandEnd i s (drainIter ⟨g, 0, 0⟩ s)

theorem commandEnd_of_exec {i : Instr} {s t : State} (h : exec i s = .next t) : CommandEnd i s t := by
  have success (u : State) : CommandEnd i s (u.finish .success i.opc) := .effective u .success (by decide)
  apply exec_elim (P := CommandEnd i s) i s t h
  case ends => exact fun code _ => .onlyResult code
  case lockFails => exact fun e hi _ _ => .refusedLock e hi
  case dec => exact fun _ _ code _ _ _ _ => .onlyResult code
  case enc => exact fun _ _ _ _ code _ _ _ _ => .onlyResult code
  case encoded => exact fun _ _ _ _ r _ _ _ _ => .effective _ _ (by split <;> decide)
  case rxw =>
    intro g G _ _ _
    rcases processReceived_cases g G s.opw s with ⟨-, hp⟩ | ⟨j, code, -, -, hp⟩ | ⟨j, d, -, -, hp⟩ <;> rw [hp]
    · exact .onlyResult _
    · exact .onlyResult _
    · exact success _
  case drain => exact fun g _ hi _ _ => .iteration hi
  case getwAbsent => exact fun _ _ _ hi _ _ _ => .absentWord hi
  all_goals intros; exact success _

/-- An iteration of a DRAIN ends it with Success, or leaves it in progress and RESULT as it is (rules R72, R205). -/
theorem drainIter_result_cases (d : DrainProgress) (s : State) :
    ((drainIter d s).drain = none ∧ (drainIter d s).result = resultWord .success (Instr.drain d.grp).opc) ∨
      ((drainIter d s).drain ≠ none ∧ (drainIter d s).result = s.result) := by
  rcases drainIter_cases d s with ⟨-, h⟩ | ⟨p, -, rfl, ⟨-, h⟩ | ⟨-, h⟩⟩ <;> rw [h]
  · exact .inl ⟨rfl, rfl⟩
  · exact .inl ⟨rfl, rfl⟩
  · exact .inr ⟨Option.some_ne_none _, drainWord_result d.grp _ _⟩

/-! ### Every command and every step answers -/

theorem code_toNat_le (code : ResultCode) : code.code.toNat ≤ 8 := by cases code <;> decide

/-- RESULT is a code of rule R270 with the opcode of the command. -/
def ResultIsOf (i : Instr) (t : State) : Prop :=
  ∃ code, code ≤ 8 ∧ t.result = BitVec.ofNat 32 (code + 256 * opcode i)

theorem resultIsOf_finish (i : Instr) (u : State) (code : ResultCode) : ResultIsOf i (u.finish code i.opc) :=
  ⟨code.code.toNat, code_toNat_le code, by rw [finish_opc_eq]⟩

theorem CommandEnd.result {i : Instr} {s t : State} (h : CommandEnd i s t) :
    ResultIsOf i t ∨ ((∃ g, i = .drain g) ∧ t.drain ≠ none ∧ t.result = s.result) := by
  cases h with
  | onlyResult | refusedLock | absentWord | effective => exact .inl (resultIsOf_finish i _ _)
  | @iteration g hi =>
    subst hi
    rcases drainIter_result_cases ⟨g, 0, 0⟩ s with ⟨-, hresult⟩ | ⟨hdrain, hresult⟩
    · obtain ⟨code, hcode, heq⟩ := resultIsOf_finish (.drain g) s .success
      exact .inl ⟨code, hcode, hresult.trans heq⟩
    · exact .inr ⟨⟨g, rfl⟩, hdrain, hresult⟩

theorem access_answers (x : Txn) (s : State) : ∃ t, access command x s = .next t := by
  cases x with
  | read a bytes => exact ⟨_, rfl⟩
  | write a bytes v =>
    obtain ⟨t, ht⟩ := command_answers v s
    simp only [access]
    split_ifs
    · exact ⟨_, rfl⟩
    · exact ⟨answerCommand t, by rw [commandWrite, ht]⟩
    · exact ⟨_, rfl⟩

/-- Each turn is a next state, but for a host transaction, which answers one (rules R72, R280). -/
theorem step_answers (s : State) : Safety.SafeStep s := by
  unfold Safety.SafeStep step turn
  split
  case h_1 | h_3 => split <;> exact ⟨_, rfl⟩
  case h_2 x rest _ =>
    split
    · exact ⟨_, rfl⟩
    · exact access_answers x _
  case h_4 | h_5 | h_6 => exact ⟨_, rfl⟩

/-- Settles O18: each end of a command has its code, and each turn its answer. -/
theorem everyCommandAnswersAndWritesResult : Obligations.EveryCommandAnswersAndWritesResult := by
  unfold Obligations.EveryCommandAnswersAndWritesResult
  refine ⟨fun i s => ?_, step_answers⟩
  obtain ⟨t, ht⟩ := exec_answers i s
  exact ⟨t, ht, (commandEnd_of_exec ht).result⟩

/-! ### Failures -/

theorem resultWord_toNat_mod (code : ResultCode) (opc : BitVec 8) :
    (resultWord code opc).toNat % 256 = code.code.toNat := by
  have hcode := code_toNat_le code
  have hopc := opc.isLt
  rw [resultWord_eq, BitVec.toNat_ofNat]
  omega

/-- What a command that failed has kept: the environment, the moves to come, the port's answer, and every register but
RESULT and those that LOCK and GETW write. -/
def KeepsOnFailure (i : Instr) (s t : State) : Prop :=
  t.env = s.env ∧ t.agenda = s.agenda ∧ t.resp = s.resp ∧
  ∀ r, r ≠ .result → (i = .lock → r ≠ .status ∧ r ≠ .errinfo) →
    ((∃ g o, i = .getw g o) → r ≠ .outw ∧ r ≠ .outf) → readReg t r = readReg s r

theorem CommandEnd.keepsOnFailure {i : Instr} {s t : State} (h : CommandEnd i s t) (hfail : 2 ≤ t.result.toNat % 256)
    (hended : (∃ g, i = .drain g) → t.drain = none) : KeepsOnFailure i s t := by
  cases h with
  | onlyResult code => exact ⟨rfl, rfl, rfl, fun r hr _ _ => by rw [readReg_finish, if_neg hr]⟩
  | refusedLock e hi =>
    refine ⟨rfl, rfl, rfl, fun r hr hlock _ => ?_⟩
    obtain ⟨hstatus, herrinfo⟩ := hlock hi
    rw [readReg_finish, if_neg hr]
    cases r with
    | status => exact absurd rfl hstatus
    | errinfo => exact absurd rfl herrinfo
    | _ => rfl
  | absentWord hi =>
    refine ⟨rfl, rfl, rfl, fun r hr _ hgetw => ?_⟩
    obtain ⟨houtw, houtf⟩ := hgetw ⟨_, _, hi⟩
    rw [readReg_finish, if_neg hr]
    cases r with
    | outw => exact absurd rfl houtw
    | outf => exact absurd rfl houtf
    | _ => rfl
  | effective u code hcode =>
    rw [State.finish_result, resultWord_toNat_mod] at hfail
    omega
  | @iteration g hi =>
    rcases drainIter_result_cases ⟨g, 0, 0⟩ s with ⟨-, hresult⟩ | ⟨hdrain, -⟩
    · rw [hresult, resultWord_toNat_mod] at hfail
      exact absurd hfail (by decide)
    · exact absurd (hended ⟨g, hi⟩) hdrain

/-- Settles O19: of the ends of a command those with a code of 2 or more keep what the statement says. -/
theorem failedCommandsWriteOnlyResult : Obligations.FailedCommandsWriteOnlyResult := by
  unfold Obligations.FailedCommandsWriteOnlyResult
  intro i s t hexec hfail hended
  exact (commandEnd_of_exec hexec).keepsOnFailure hfail hended

end Sys2Proof.Spec
end

section
/-! PROOFS. The reset input (rules R300-R302): what each register reads after it, in any implementation, and the
invariant. The machine's reset state is what the reset input makes of itself, so what holds after a reset holds there. -/

namespace Sys2Proof.Spec

open Sys2Proof.Machine Sys2Proof.Safety

/-! ### Registers of an element after reset -/

theorem half_zero (h : Half) : half 0 h = 0 := by cases h <;> rfl

theorem readAt_replicate {α : Type} {n k : ℕ} (hk : k < n) (x : α) (f : α → Word) :
    readAt (List.replicate n x) k f = f x :=
  readAt_some _ _ x f (List.getElem?_replicate_of_lt hk)

theorem readCfg_reset (hasEn : Bool) (r : CfgReg) : readCfg hasEn LabelConfig.reset r = 0 := by
  cases r with
  | cfg0 => cases hasEn <;> rfl
  | res h | minv h | maxv h => exact half_zero h
  | minTx | maxTx => rfl

theorem readSlot_reset (r : SlotReg) : readSlot Slot.reset r = 0 := by
  cases r with
  | engf h => exact half_zero h
  | _ => rfl

theorem readLp_reset (e : ℕ) (r : LpReg) : readLp LowPass.reset r = resetValue (.lp e r) := by
  cases r with
  | k1 h | k2 h | prev h => cases h <;> rfl
  | stat | spcnt => rfl

theorem readDf_reset (e : ℕ) (r : DfReg) : readDf Diff.reset r = resetValue (.df e r) := by
  cases r with
  | k1 h | fs h | ul h | ll h | ud h | ld h | pin h | pout h => cases h <;> rfl
  | stat | spcnt => rfl

/-! ### All registers -/

/-- After the reset input every register of the implementation but NOW and PARAMS reads its reset value (rule R301). -/
theorem readReg_applyReset {s : State} {r : Reg} (hr : Mapped s r) (hnow : r ≠ .now) (hparams : r ≠ .params) :
    readReg s.applyReset r = resetValue r := by
  cases r with
  | now => exact absurd rfl hnow
  | params => exact absurd rfl hparams
  | gnum g | gmaxbf g | gcnt g | gstat g => exact readAt_replicate hr _ _
  | lp e x => exact (readAt_replicate hr _ _).trans (readLp_reset e x)
  | df e x => exact (readAt_replicate hr _ _).trans (readDf_reset e x)
  | ct t x =>
    have hct : s.applyReset.ct[t] = LabelConfig.reset := Vector.getElem_replicate _
    rw [readReg, hct]
    exact readCfg_reset true x
  | entry g j x =>
    refine (readAt_replicate hr _ _).trans ?_
    rw [show Group.reset.entries[j] = LabelConfig.reset from Vector.getElem_replicate _]
    exact readCfg_reset false x
  | slot g j x =>
    refine (readAt_replicate hr _ _).trans ?_
    rw [show Group.reset.slots[j] = Slot.reset from Vector.getElem_replicate _]
    exact readSlot_reset x
  | opa h | outa h => exact half_zero h
  | status => exact statusWord_eq _
  | _ => rfl

/-- Reset changes no size of the implementation, so PARAMS stays (rule R37). -/
theorem readReg_params_applyReset (s : State) : readReg s.applyReset .params = readReg s .params := by
  simp [readReg, paramsWord, State.applyReset, State.resetWith]

/-- The machine's reset state is the default implementation after the reset input (rules R8, R301). -/
theorem applyReset_reset : State.reset.applyReset = State.reset := rfl

/-- Settles O14: the reset input by register, and the reset state as a state that the reset input made. -/
theorem resetPutsEveryRegisterAtItsResetValue : Obligations.ResetPutsEveryRegisterAtItsResetValue := by
  unfold Obligations.ResetPutsEveryRegisterAtItsResetValue
  refine ⟨fun s rest hagenda => ?_, fun r hr hnow hparams => ?_, by decide⟩
  · have hstep : step s = .next (State.applyReset { s with agenda := rest }) := by
      simp only [step, turn, hagenda, State.inputMove]
    exact ⟨_, hstep, rfl, rfl, rfl, readReg_params_applyReset _, fun r hr => readReg_applyReset hr⟩
  · rw [← applyReset_reset]
    exact readReg_applyReset hr hnow hparams

/-- Settles O58: the default sizes are legal, and in legal sizes the reset values satisfy the invariant. -/
theorem resetSatisfiesTheInvariant : Obligations.ResetSatisfiesTheInvariant := by
  unfold Obligations.ResetSatisfiesTheInvariant
  rw [← applyReset_reset]
  exact Inv.applyReset (by decide)

end Sys2Proof.Spec
end

section
/-! PROOFS. A NaN in a filter and the way out of it (rules R242, R247, R250, R321): one step on a NaN, for each engine,
and a spool cycle that restarts it. -/

namespace Sys2Proof.Spec

open Sys2Proof.Machine

/-! ### One step on a NaN -/

/-- An LPSTEP from a NaN state or on a NaN sample outputs a NaN and keeps it as the state (rule R242). -/
theorem exec_lpstep_of_isNaN {s : State} {e : ℕ} {l : LowPass} (hlocked : s.locked = true) (hl : s.lp[e]? = some l)
    (h : Flt.isNaN l.prev = true ∨ Flt.isNaN s.opa = true) :
    ∃ t l', exec (.lpstep e) s = .next t ∧ t.locked = true ∧ t.lp[e]? = some l' ∧
      Flt.isNaN t.outa = true ∧ l'.prev = t.outa := by
  have hnan : Flt.isNaN (lpOutput s.nan l s.opa) = true := by
    rw [lpOutput_of_isNaN s.nan (allNaN_nan s) h]
    exact allNaN_nan s 2
  exact ⟨_, (l.next s.nan s.opa).2, exec_lpstep hlocked hl, hlocked,
    List.getElem?_set_self (List.getElem?_eq_some_iff.mp hl).1, hnan, rfl⟩

/-- A DFSTEP after a NaN sample or on one outputs a NaN, and the sample becomes the previous input (rule R247). -/
theorem exec_dfstep_of_isNaN {s : State} {e : ℕ} {d : Diff} (hlocked : s.locked = true) (hd : s.df[e]? = some d)
    (h : Flt.isNaN d.pin = true ∨ Flt.isNaN s.opa = true) :
    ∃ t d', exec (.dfstep e) s = .next t ∧ t.locked = true ∧ t.df[e]? = some d' ∧
      Flt.isNaN t.outa = true ∧ d'.pin = s.opa ∧ d'.pout = t.outa := by
  have hnan : Flt.isNaN (d.next s.nan s.opa).1 = true := by
    rw [dfOutput_of_isNaN (allNaN_nan s) h (dfOutput_iff.mpr rfl)]
    exact allNaN_nan s 1
  exact ⟨_, (d.next s.nan s.opa).2, exec_dfstep hlocked hd, hlocked,
    List.getElem?_set_self (List.getElem?_eq_some_iff.mp hd).1, hnan, rfl, rfl⟩

/-! ### Steps one after the other -/

theorem repeatWith_succ {i : Instr} {x : ℕ → Flt} {k : ℕ} {s t u : State} (ht : repeatWith i x k s = some t)
    (hu : exec i { t with opa := x (k + 1) } = .next u) : repeatWith i x (k + 1) s = some u := by
  simp only [repeatWith, ht, hu]

/-- In RUN mode, low-pass engine e is about to give a NaN on the sample `x (k + 1)`, and after a first step it holds a NaN
it has put out. -/
def LpNaNAfter (e : ℕ) (x : ℕ → Flt) (k : ℕ) (u : State) : Prop :=
  u.locked = true ∧ ∃ l, u.lp[e]? = some l ∧ (Flt.isNaN l.prev = true ∨ Flt.isNaN (x (k + 1)) = true) ∧
    (0 < k → Flt.isNaN u.outa = true ∧ l.prev = u.outa)

theorem LpNaNAfter.succ {e : ℕ} {x : ℕ → Flt} {k : ℕ} {u : State} (h : LpNaNAfter e x k u) :
    ∃ t, exec (.lpstep e) { u with opa := x (k + 1) } = .next t ∧ LpNaNAfter e x (k + 1) t := by
  obtain ⟨hlocked, l, hl, hnan, -⟩ := h
  obtain ⟨t, l', ht, hlocked', hl', houta, hprev⟩ :=
    exec_lpstep_of_isNaN (s := { u with opa := x (k + 1) }) hlocked hl hnan
  exact ⟨t, ht, hlocked', l', hl', .inl (hprev ▸ houta), fun _ => ⟨houta, hprev⟩⟩

/-! ### An invalid spool cycle, then a valid one -/

section
variable {s : State} {e n : ℕ} {c : LabelConfig} (hlocked : s.locked = true) (hentry : EntryIs s n c) (x : Flt)
include hlocked hentry

/-- An invalid LPSPOOL sets the count to 0, so the next valid one preloads the engine with its sample (rule R250). -/
theorem lpspool_restarts {l : LowPass} (hl : s.lp[e]? = some l) :
    ∃ t u l', exec (.lpspool e n false) s = .next t ∧ exec (.lpspool e n true) { t with opa := x } = .next u ∧
      u.lp[e]? = some l' ∧ l'.prev = x := by
  obtain ⟨t, ht, hlocked', hentry', hl'⟩ : ∃ t, exec (.lpspool e n false) s = .next t ∧ t.locked = true ∧
      EntryIs t n c ∧ t.lp[e]? = some { l with spool := ⟨false, 0⟩ } :=
    ⟨_, exec_lpspool hlocked hl hentry (spoolCycle_invalid ..), hlocked, hentry,
      List.getElem?_set_self (List.getElem?_eq_some_iff.mp hl).1⟩
  exact ⟨t, _, _, ht,
    exec_lpspool (s := { t with opa := x }) hlocked' hl' hentry' (spoolCycle_first _ _ _ _ _ _ rfl rfl),
    List.getElem?_set_self (List.getElem?_eq_some_iff.mp hl').1, rfl⟩

/-- An invalid DFSPOOL sets the count to 0, so the next valid one preloads the engine with its sample (rule R250). -/
theorem dfspool_restarts {d : Diff} (hd : s.df[e]? = some d) :
    ∃ t u d', exec (.dfspool e n false) s = .next t ∧ exec (.dfspool e n true) { t with opa := x } = .next u ∧
      u.df[e]? = some d' ∧ d'.pin = x ∧ d'.pout = 0 := by
  obtain ⟨t, ht, hlocked', hentry', hd'⟩ : ∃ t, exec (.dfspool e n false) s = .next t ∧ t.locked = true ∧
      EntryIs t n c ∧ t.df[e]? = some { d with spool := ⟨false, 0⟩ } :=
    ⟨_, exec_dfspool hlocked hd hentry (spoolCycle_invalid ..), hlocked, hentry,
      List.getElem?_set_self (List.getElem?_eq_some_iff.mp hd).1⟩
  exact ⟨t, _, _, ht,
    exec_dfspool (s := { t with opa := x }) hlocked' hd' hentry' (spoolCycle_first _ _ _ _ _ _ rfl rfl),
    List.getElem?_set_self (List.getElem?_eq_some_iff.mp hd').1, rfl, rfl⟩

end

/-- Settles O53: a low-pass run by induction on its steps, two differentiator steps in a row, and the restarts. -/
theorem nanReachesBothFiltersAndASpoolRestartRecovers :
    Obligations.NanReachesBothFiltersAndASpoolRestartRecovers := by
  unfold Obligations.NanReachesBothFiltersAndASpoolRestartRecovers
  refine ⟨fun s e l x k hlocked hl hnan hk => ?lowPass, fun s e d x hlocked hd hnan => ?differentiator,
    fun s e n l c x hlocked hl hentry => lpspool_restarts hlocked hentry x hl,
    fun s e n d c x hlocked hd hentry => dfspool_restarts hlocked hentry x hd⟩
  case lowPass =>
    have hzero : LpNaNAfter e x 0 s := ⟨hlocked, l, hl, hnan, fun h => absurd h (lt_irrefl 0)⟩
    obtain ⟨t, ht, -, l', hl', -, hlast⟩ := repeatWith_induction hzero (fun _ _ h => h.succ) k
    obtain ⟨houta, hprev⟩ := hlast hk
    exact ⟨t, l', ht, houta, hl', hprev⟩
  case differentiator =>
    obtain ⟨t, d', hstep, hlocked', hd', houta, hpin, -⟩ :=
      exec_dfstep_of_isNaN (s := { s with opa := x 1 }) hlocked hd (.inr hnan)
    have ht : repeatWith (.dfstep e) x 1 s = some t := repeatWith_succ rfl hstep
    obtain ⟨u, d'', hstep', -, hd'', houta', hpin', hpout'⟩ :=
      exec_dfstep_of_isNaN (s := { t with opa := x 2 }) hlocked' hd' (.inl (hpin ▸ hnan))
    exact ⟨t, u, d'', ht, repeatWith_succ ht hstep', houta, houta', hd'', hpin', hpout'⟩

end Sys2Proof.Spec
end
